-- ==== Sys2Proof/Word.lean ====
section
/-!
DEFINITION. The word types of the block: bus words, bytes and binary32 encodings.
-/

namespace Sys2Proof

/-- A 32-bit bus word (20_memory.md R130). -/
abbrev W32 := BitVec 32

/-- One byte of the little-endian view of a bus word (20_memory.md R137). -/
abbrev Byte := BitVec 8

/-- An IEEE 754 binary32 encoding: bit 31 sign, bits 30:23 biased exponent, bits 22:0 fraction
(00_scope.md R16). -/
abbrev F32 := BitVec 32

/-- A complex value of the FFT: real and imaginary part (00_scope.md R28). -/
abbrev Cplx := F32 × F32

end Sys2Proof
end

