-- ==== Sys2Proof/Config.lean ====
section
/-!
DEFINITION. What an implementation fixes: the parameters of 00_scope.md R8 at this hardware's values, and the free values
the spec leaves open, as constants without a body.
-/

namespace Sys2Proof.Config

/-- The two forms of the PLL phase detector (41_pll.md R268). -/
inductive Detector where
  /-- `fsub(i2f(pos), pos_p)`. -/
  | direct
  /-- `fsub(i2f(pos), ffloor(pos_p))`. -/
  | floor
deriving DecidableEq, Repr

/-- `ADC_BITS` (00_scope.md R8). -/
abbrev adcBits : Nat := 12

/-- `log2 MAP_DEPTH`, the field of `G.PARAMS` (10_state.md R58). -/
abbrev log2MapDepth : Nat := 13

/-- `MAP_DEPTH` (00_scope.md R8). -/
abbrev mapDepth : Nat := 8192

/-- `N_HARM` (00_scope.md R8). -/
abbrev nHarm : Nat := 8

/-- `LOG_DEPTH` (00_scope.md R8). -/
abbrev logDepth : Nat := 16

/-- `FFT_MIN` (00_scope.md R8). -/
abbrev fftMin : Nat := 4

/-- `PLL_DETECTOR` (00_scope.md R8): this hardware is `DIRECT`. -/
abbrev pllDetector : Detector := .direct

/-- `G.ID` (10_state.md R52). -/
abbrev idWord : W32 := 0x4F444331#32

/-- Raw draw behind `nan_draw` (00_scope.md R24): delivery number, operation of that delivery. `State.nanDraw` turns it
into a NaN. Log 4. -/
opaque nanRaw : Nat → Nat → F32

/-- Raw choice behind `tie_draw` (43_anticogging.md R344): delivery number, harmonic entry. Log 7. -/
opaque tieRaw : Nat → Nat → Nat

/-- Raw function behind `sin_f` (00_scope.md R27); `sinF` keeps SC0 to SC2. Log 5. -/
opaque sinRaw : F32 → F32

/-- Raw function behind `cos_f` (00_scope.md R27); `cosF` keeps SC0 to SC2. Log 5. -/
opaque cosRaw : F32 → F32

/-- Raw function behind `fft_fwd` (00_scope.md R28): length, input, output index. Log 6. -/
opaque fftFwdRaw : Nat → List Cplx → Nat → Cplx

/-- Raw function behind `fft_inv` (00_scope.md R28): length, input, output index. Log 6. -/
opaque fftInvRaw : Nat → List Cplx → Nat → Cplx

/-- The byte of `MAP` or `HARM` at an address after a reset, before anything wrote it (70_reset_and_hazards.md R453,
93_implementation_defined.md I6): number of the reset, byte address. Log 1. -/
opaque resetByte : Nat → Nat → Byte

/-- Element of `FFT_SCRATCH[a]` after a reset, before a command wrote it (10_state.md R105, 93_implementation_defined.md I7):
number of the reset, axis, element. Log 2. -/
opaque resetScratch : Nat → Nat → Nat → Cplx

end Sys2Proof.Config
end

