-- ==== Sys2Proof/Machine/Float.lean ====
section
/-!
DEFINITION. The binary32 primitives of 00_scope.md R16 to R26, computed exactly in integers and rounded once
(roundTiesToEven, subnormals kept, no FMA), and the functions `sin_f`, `cos_f` of R27.

A finite binary32 value is a whole number of units of `2^-149`; `fInt` is that number. An operation that IEEE 754 answers with
a NaN answers its argument `nan`, the free draw of R24.
-/

namespace Sys2Proof.Machine

/-- The encoding without its sign bit. -/
def fMag (x : F32) : Nat := x.toNat % 0x80000000

/-- The sign bit. -/
def fSign (x : F32) : Bool := x.msb

/-- `isNaN` (00_scope.md R20). -/
def isNaN (x : F32) : Bool := decide (0x7F800000 < fMag x)

/-- ±infinity. -/
def isInf (x : F32) : Bool := decide (fMag x = 0x7F800000)

/-- `isFinite` (00_scope.md R20). -/
def isFinite (x : F32) : Bool := decide (fMag x < 0x7F800000)

/-- The magnitude of a finite value in units of `2^-149` (00_scope.md R16, R18). -/
def fUnits (x : F32) : Nat :=
  if fMag x / 0x800000 = 0 then fMag x else (0x800000 + fMag x % 0x800000) * 2 ^ (fMag x / 0x800000 - 1)

/-- A finite value in units of `2^-149`. -/
def fInt (x : F32) : Int := if fSign x then -(fUnits x : Int) else (fUnits x : Int)

/-- The order of the values that are not NaNs: negative below zero, both zeros equal (00_scope.md R20). -/
def fKey (x : F32) : Int := if fSign x then -(fMag x : Int) else (fMag x : Int)

/-- The encoding of a sign and a magnitude field. -/
def fPack (neg : Bool) (mag : Nat) : F32 := BitVec.ofNat 32 (if neg then 0x80000000 + mag else mag)

/-- The magnitude field nearest the exact value `n / d` units, ties to even, infinity on overflow (00_scope.md R17). The unit
in the last place is `2 ^ sh` units, so that the rounded significand `m` fills at most 24 bits; `sh * 2^23 + m` is then the
magnitude field, for subnormals, normals and a carry into the next binade alike. -/
def roundMag (n d : Nat) : Nat :=
  let sh := Nat.log2 (n / d) + 1 - 24
  let u := d * 2 ^ sh
  let m := if u < 2 * (n % u) ∨ (2 * (n % u) = u ∧ n / u % 2 = 1) then n / u + 1 else n / u
  min (sh * 0x800000 + m) 0x7F800000

/-- The binary32 value nearest a whole number of units. -/
def fOfUnits (n : Int) : F32 := fPack (decide (n < 0)) (roundMag n.natAbs 1)

/-- `fneg`: bit 31 flipped and nothing else (00_scope.md R17). -/
def fneg (x : F32) : F32 := x ^^^ 0x80000000#32

/-- `fadd` (00_scope.md R17); `nan` is the free NaN of R24. -/
def fadd (nan x y : F32) : F32 :=
  if isNaN x || isNaN y then nan
  else if isInf x then (if isInf y && fSign x != fSign y then nan else x)
  else if isInf y then y
  else if fInt x + fInt y = 0 then fPack (fSign x && fSign y) 0
  else fOfUnits (fInt x + fInt y)

/-- `fsub` (00_scope.md R17): the sum with the negated operand. -/
def fsub (nan x y : F32) : F32 := fadd nan x (fneg y)

/-- `fmul` (00_scope.md R17). -/
def fmul (nan x y : F32) : F32 :=
  if isNaN x || isNaN y then nan
  else if (isInf x && fMag y == 0) || (fMag x == 0 && isInf y) then nan
  else if isInf x || isInf y then fPack (fSign x != fSign y) 0x7F800000
  else fPack (fSign x != fSign y) (roundMag (fUnits x * fUnits y) (2 ^ 149))

/-- `fdiv` (00_scope.md R17, R19): a division by zero gives infinity, `0/0` and `inf/inf` a NaN. -/
def fdiv (nan x y : F32) : F32 :=
  if isNaN x || isNaN y then nan
  else if (isInf x && isInf y) || (fMag x == 0 && fMag y == 0) then nan
  else if isInf x || fMag y == 0 then fPack (fSign x != fSign y) 0x7F800000
  else if isInf y then fPack (fSign x != fSign y) 0
  else fPack (fSign x != fSign y) (roundMag (fUnits x * 2 ^ 149) (fUnits y))

/-- One bit after another of the integer square root, from bit `i - 1` down. -/
def isqrtFrom (n : Nat) : Nat → Nat → Nat
  | 0, r => r
  | i + 1, r => if (r + 2 ^ i) * (r + 2 ^ i) ≤ n then isqrtFrom n i (r + 2 ^ i) else isqrtFrom n i r

/-- The integer square root of a number below `2^428`. -/
def isqrt (n : Nat) : Nat := isqrtFrom n 214 0

/-- `fsqrt` (00_scope.md R17). The root of a positive value has at least 75 bits in units of `2^-149`, so one further bit,
set when the root is not exact, decides the rounding. -/
def fsqrt (nan x : F32) : F32 :=
  if isNaN x then nan
  else if fMag x = 0 then x
  else if fSign x then nan
  else if isInf x then x
  else
    let n := fUnits x * 2 ^ 149
    let r := isqrt n
    fPack false (roundMag (2 * r + if r * r = n then 0 else 1) 2)

/-- `flt` (00_scope.md R20): a quiet comparison, false when an operand is a NaN. -/
def flt (x y : F32) : Bool := !isNaN x && !isNaN y && decide (fKey x < fKey y)

/-- `fle` (00_scope.md R20). -/
def fle (x y : F32) : Bool := !isNaN x && !isNaN y && decide (fKey x ≤ fKey y)

/-- `fgt` (00_scope.md R20). -/
def fgt (x y : F32) : Bool := flt y x

/-- `fge` (00_scope.md R20). -/
def fge (x y : F32) : Bool := fle y x

/-- `feq` (00_scope.md R20). -/
def feq (x y : F32) : Bool := !isNaN x && !isNaN y && decide (fKey x = fKey y)

/-- `i2f` (00_scope.md R22). -/
def i2f (n : Int) : F32 := fOfUnits (n * 2 ^ 149)

/-- `trunc` of a finite value: toward zero (00_scope.md R11). -/
def fTrunc (x : F32) : Int :=
  if fSign x then -((fUnits x / 2 ^ 149 : Nat) : Int) else ((fUnits x / 2 ^ 149 : Nat) : Int)

/-- The domain of `f2i_trunc` (00_scope.md R23). -/
def f2iDefined (x : F32) : Bool :=
  isFinite x && decide (-2147483648 ≤ fTrunc x) && decide (fTrunc x < 2147483648)

/-- `f2u16_trunc` (00_scope.md R23), for a finite `x` with `0 <= x < 2^16`; no rule applies it elsewhere (log 16). -/
def f2u16Trunc (x : F32) : BitVec 16 := BitVec.ofNat 16 (fUnits x / 2 ^ 149)

/-- `ffloor` (41_pll.md R268): the greatest integer not above `x`, exact; a zero, a NaN and an infinity stay as they are. -/
def ffloor (x : F32) : F32 :=
  if !isFinite x || fMag x == 0 then x else i2f (fInt x / 2 ^ 149)

/-- `ZERO` (00_scope.md R25). -/
def fZero : F32 := 0x00000000#32
/-- `ONE` (00_scope.md R25). -/
def fOne : F32 := 0x3F800000#32
/-- `TWO` (00_scope.md R25). -/
def fTwo : F32 := 0x40000000#32
/-- `HALF` (00_scope.md R25). -/
def fHalf : F32 := 0x3F000000#32
/-- `TWO_PI_F` (00_scope.md R25). -/
def fTwoPi : F32 := 0x40C90FDB#32
/-- `ONE_BY_SQRT3` (00_scope.md R25). -/
def fOneBySqrt3 : F32 := 0x3F13CD3A#32
/-- `TWO_BY_SQRT3` (00_scope.md R25). -/
def fTwoBySqrt3 : F32 := 0x3F93CD3A#32
/-- `SQRT3_BY_2` (00_scope.md R25). -/
def fSqrt3By2 : F32 := 0x3F5DB3D7#32
/-- `TWO_THIRDS` (00_scope.md R25). -/
def fTwoThirds : F32 := 0x3F2AAAAB#32
/-- `DECAY` (00_scope.md R25). -/
def fDecay : F32 := 0x3F7D70A4#32

/-- `fmin01` (00_scope.md R21): a NaN and `-0.0` stay as they are. -/
def fmin01 (x : F32) : F32 := if flt x fZero then fZero else if fgt x fOne then fOne else x

/-- `fmag2` (00_scope.md R26). -/
def fmag2 (nan x y : F32) : F32 := fadd nan (fmul nan x x) (fmul nan y y)

/-- A raw draw made a NaN: every NaN is some draw's value, and nothing else is (00_scope.md R24). -/
def asNaN (r : F32) : F32 := if isNaN r then r else 0x7FC00000#32

/-- A raw value kept in `[-1.0, 1.0]` (SC1 of 00_scope.md R27). -/
def asUnit (r : F32) : F32 := if fle r fOne && fge r (fneg fOne) then r else fZero

/-- `sin_f` (00_scope.md R27): any function with SC0, SC1 and SC2, by the free choice of `sinRaw` (log 5). -/
def sinF (x : F32) : F32 :=
  if x = fZero then fZero
  else if isFinite x then asUnit (Config.sinRaw x)
  else asNaN (Config.sinRaw x)

/-- `cos_f` (00_scope.md R27): any function with SC0, SC1 and SC2, by the free choice of `cosRaw` (log 5). -/
def cosF (x : F32) : F32 :=
  if x = fZero then fOne
  else if isFinite x then asUnit (Config.cosRaw x)
  else asNaN (Config.cosRaw x)

end Sys2Proof.Machine
end

