-- ==== Sys2Proof/Syntax.lean ====
section
/-!
DEFINITION. The instructions of the block: the commands of 30_encoding.md R186 and R187 and the events of R189, one
constructor per row of spec/opcode_table.json, and the words they arrive as.
-/

namespace Sys2Proof

/-- The two motor axes (00_scope.md R2). -/
inductive Axis where
  | ax0
  | ax1
deriving DecidableEq, Repr

/-- The axis a bit names: 0 axis 0, 1 axis 1 (30_encoding.md R184). -/
def Axis.ofBool : Bool → Axis
  | false => .ax0
  | true => .ax1

/-- The bit that names the axis. -/
def Axis.toBool : Axis → Bool
  | .ax0 => false
  | .ax1 => true

/-- The number of the axis. -/
def Axis.toNat : Axis → Nat
  | .ax0 => 0
  | .ax1 => 1

/-- The other axis. -/
def Axis.other : Axis → Axis
  | .ax0 => .ax1
  | .ax1 => .ax0

/-- The two units of the ADC pair (40_sequencer.md R221): unit 0 converts phase B, unit 1 phase C. -/
inductive AdcUnit where
  | unit0
  | unit1
deriving DecidableEq, Repr

/-- The instructions: nine axis commands, each on the port of an axis, two global commands and two events.
An event carries the fields of 30_encoding.md R184 as they stand in its word. -/
inductive Instr where
  /-- `NOP` (44_system.md R380). -/
  | nop (a : Axis)
  /-- `PLL_INIT` (41_pll.md R270). -/
  | pllInit (a : Axis)
  /-- `PLL_UPDATE` (41_pll.md R271). -/
  | pllUpdate (a : Axis)
  /-- `PLL_SET_BW` (41_pll.md R272). -/
  | pllSetBw (a : Axis)
  /-- `FOC_STEP` (42_foc.md R300). -/
  | focStep (a : Axis)
  /-- `VOLT_STEP` (42_foc.md R301). -/
  | voltStep (a : Axis)
  /-- `ACOG_LOOKUP` (43_anticogging.md R345). -/
  | acogLookup (a : Axis)
  /-- `ACOG_COMPRESS` (43_anticogging.md R346). -/
  | acogCompress (a : Axis)
  /-- `ACOG_DECOMPRESS` (43_anticogging.md R347). -/
  | acogDecompress (a : Axis)
  /-- `GNOP` (44_system.md R381). -/
  | gnop
  /-- `SEQ_START` (44_system.md R382). -/
  | seqStart
  /-- `ADC_EOC` (40_sequencer.md R224). -/
  | adcEoc (chan trig : Axis) (unit : BitVec 2) (raw : BitVec 12)
  /-- `ADC_EOC_FOREIGN` (40_sequencer.md R225). -/
  | adcEocForeign (chan trig : Axis) (unit : BitVec 2) (raw : BitVec 12)
deriving DecidableEq, Repr

/-- A word where it arrives (30_encoding.md R180): the format is fixed by the port, never by the bits. -/
inductive Wire where
  /-- A write of the word to `AX[a].CMD`. -/
  | cmd (a : Axis) (w : W32)
  /-- A write of the word to `G.GCMD`. -/
  | gcmd (w : W32)
  /-- A delivery of the word on `adc_evt`. -/
  | evt (w : BitVec 16)
deriving DecidableEq, Repr

end Sys2Proof
end

