-- ==== Sys2Proof/Machine/State.lean ====
section
/-!
DEFINITION. The state of the block as plain data (10_state.md), its value after reset (70_reset_and_hazards.md R451), and the
reasons a step could stop (none: 60_exceptions.md R400).
-/

namespace Sys2Proof.Machine

/-- One value for each motor axis. -/
structure PerAxis (α : Type) where
  ax0 : α
  ax1 : α
deriving DecidableEq, Repr

/-- One value for each unit of the ADC pair. -/
structure PerUnit (α : Type) where
  unit0 : α
  unit1 : α
deriving DecidableEq, Repr

/-- The status codes of `CMD_STATUS` and `GCMD_STATUS` (30_encoding.md R190); codes 8 to 15 are never produced. -/
inductive Status where
  | ok
  | eIllegal
  | eArg
  | eSize
  | eDisabled
  | eTiming
  | eModulation
  | eUnstable
deriving DecidableEq, Repr

/-- The global registers a host configures, and `GCMD_STATUS` (10_state.md R54, R59, R61 to R66). -/
structure GlobalRegs where
  /-- `G.GCMD_STATUS` (R54). -/
  gcmdStatus : Status
  /-- `G.IRQ_EN`: bit 0 `READY0_EN`, bit 1 `READY1_EN`, bit 2 `FAULT_EN` (R59). -/
  irqEn : BitVec 3
  /-- `G.VBUS` (R61). -/
  vbus : F32
  /-- `G.T` (R62). -/
  t : F32
  /-- `G.DC_TAU` (R63). -/
  dcTau : F32
  /-- `G.MOD_LIMIT_FRAC` (R64). -/
  modLimitFrac : F32
  /-- `G.BRAKE_R` (R65). -/
  brakeR : F32
  /-- `G.BRAKE_DUTY_MAX` (R66). -/
  brakeDutyMax : F32
deriving DecidableEq, Repr

/-- The state of `SEQ` (10_state.md R55 to R57). -/
structure SeqRegs where
  /-- `G.SEQ_STATUS.SEQ_STATE` (R55). -/
  state : BitVec 2
  /-- `G.SEQ_STATUS.DONE0` and `DONE1` (R55). -/
  done : PerUnit Bool
  /-- `G.SEQ_STATUS.RUN` (R55). -/
  run : Bool
  /-- `G.SEQ_STATUS.BAD` (R55). -/
  bad : Bool
  /-- `G.SEQ_FAULT_INFO` (R56). -/
  faultInfo : W32
  /-- `G.TRIG_SEL`, the axis each unit is set up for (R57). -/
  trigSel : PerUnit Axis
deriving DecidableEq, Repr

/-- The state of `BRK` (10_state.md R67, R68). -/
structure BrkRegs where
  /-- `G.BRAKE_DUTY` (R67). -/
  duty : F32
  /-- `G.BRAKE_REPORTED` (R68). -/
  reported : PerAxis Bool
deriving DecidableEq, Repr

/-- The control registers of an axis (10_state.md R70, R71, R73). -/
structure CtlRegs where
  /-- `CMD_STATUS` (R70). -/
  cmdStatus : Status
  /-- `CTRL.ENABLE` (R71). -/
  enable : Bool
  /-- `CTRL.PHASE_SRC`: false `ELEC_PHASE`, true `PHASE_EXT` (R71). -/
  phaseSrc : Bool
  /-- `ERROR[9:0]` (R73). -/
  error : BitVec 10
deriving DecidableEq, Repr

/-- The sampler's registers of an axis (10_state.md R72, R75 to R77) and its hidden staging (R105). -/
structure SampRegs where
  /-- `STATUS.READY` (R72). -/
  ready : Bool
  /-- `STATUS.OVERRUN` (R72). -/
  overrun : Bool
  /-- `CURR_GAIN` (R75). -/
  currGain : F32
  /-- `DC_B` (R76). -/
  dcB : F32
  /-- `DC_C` (R76). -/
  dcC : F32
  /-- `SAMPLE_B` (R77). -/
  sampleB : F32
  /-- `SAMPLE_C` (R77). -/
  sampleC : F32
  /-- `STAGE_B`, hidden (R105). -/
  stageB : F32
  /-- `STAGE_C`, hidden (R105). -/
  stageC : F32
deriving DecidableEq, Repr

/-- The estimator's registers of an axis (10_state.md R78 to R87). -/
structure PllRegs where
  /-- `CPR` (R78). -/
  cpr : W32
  /-- `POLE_PAIRS` (R79). -/
  polePairs : W32
  /-- `ENC_OFFSET`, signed (R80). -/
  encOffset : W32
  /-- `ENC_PREV` (R81). -/
  encPrev : BitVec 16
  /-- `ENC_POS`, signed (R82). -/
  encPos : W32
  /-- `ENC_POS_MOD` (R83). -/
  encPosMod : W32
  /-- `ELEC_PHASE` (R84). -/
  elecPhase : F32
  /-- `PLL_POS` (R85). -/
  pos : F32
  /-- `PLL_VEL` (R85). -/
  vel : F32
  /-- `PLL_KP` (R86). -/
  kp : F32
  /-- `PLL_KI` (R86). -/
  ki : F32
  /-- `PLL_BW` (R87). -/
  bw : F32
deriving DecidableEq, Repr

/-- The current controller's registers of an axis (10_state.md R72, R97 to R104). -/
structure FocRegs where
  /-- `STATUS.MOD_SAT` (R72). -/
  modSat : Bool
  /-- `PHASE_EXT` (R97). -/
  phaseExt : F32
  /-- `ID_SET` (R98). -/
  idSet : F32
  /-- `IQ_SET` (R98). -/
  iqSet : F32
  /-- `KP_I` (R99). -/
  kpI : F32
  /-- `KI_I` (R99). -/
  kiI : F32
  /-- `V_INT_D` (R100). -/
  vIntD : F32
  /-- `V_INT_Q` (R100). -/
  vIntQ : F32
  /-- `ID_MEAS` (R101). -/
  idMeas : F32
  /-- `IQ_MEAS` (R101). -/
  iqMeas : F32
  /-- `MOD_D` (R102). -/
  modD : F32
  /-- `MOD_Q` (R102). -/
  modQ : F32
  /-- `IBUS` (R103). -/
  ibus : F32
  /-- `V_ALPHA` (R104). -/
  vAlpha : F32
  /-- `V_BETA` (R104). -/
  vBeta : F32
deriving DecidableEq, Repr

/-- The PWM timings and the timing log of an axis (10_state.md R88 to R91). -/
structure PwmRegs where
  /-- `PWM_PERIOD` (R89). -/
  period : BitVec 16
  /-- `DEADLINE` (R90). -/
  deadline : BitVec 16
  /-- `PWM_CMP_A` (R91). -/
  cmpA : BitVec 16
  /-- `PWM_CMP_B` (R91). -/
  cmpB : BitVec 16
  /-- `PWM_CMP_C` (R91). -/
  cmpC : BitVec 16
  /-- `TLOG[0 .. LOG_DEPTH-1]` (R88). -/
  tlog : Vector (BitVec 16) Config.logDepth
  /-- `TLOG_IDX` (R88). -/
  tlogIdx : BitVec 4
  /-- `TLAST` (R88). -/
  tlast : BitVec 16
deriving DecidableEq, Repr

/-- `FFT_SCRATCH[a]`, hidden: `MAP_DEPTH` complex values (10_state.md R105). Held here are the elements written since the last
reset, which are always a run from element 0; every other element has a free value (`State.scratchAt`, log 2). -/
structure FftScratch where
  /-- Elements `0, 1, ...`, as last written. -/
  written : List Cplx
  /-- The buffer has `MAP_DEPTH` elements. -/
  fits : written.length ≤ Config.mapDepth
deriving DecidableEq, Repr

/-- The anti-cogging registers of an axis (10_state.md R92 to R94) and its hidden FFT scratch (R105). -/
structure AcogRegs where
  /-- `ACOG_CTRL.MAP_VALID` (R92). -/
  mapValid : Bool
  /-- `ACOG_POS` (R93). -/
  pos : F32
  /-- `ACOG_FF` (R94). -/
  ff : F32
  /-- `FFT_SCRATCH`, hidden (R105). -/
  scratch : FftScratch
deriving DecidableEq, Repr

/-- The registers of one axis (10_state.md section 3), by unit. -/
structure AxisRegs where
  ctl : CtlRegs
  samp : SampRegs
  pll : PllRegs
  foc : FocRegs
  pwm : PwmRegs
  acog : AcogRegs
deriving DecidableEq, Repr

/-- The storage of the map and harmonic windows: the bytes written since the last reset, by bus address, addresses strictly
rising. An unlisted byte holds no written value (log 1). -/
abbrev Memory := List Host.Cell

/-- The host's side of the last bus access (20_memory.md R140): a field of the MODEL (log 10). -/
structure BusResponse where
  /-- The error response. -/
  error : Bool
  /-- The data of a read; a write has none. -/
  rdata : Option W32
deriving DecidableEq, Repr

/-- One thing the environment does (20_memory.md R148, 10_state.md R107, 70_reset_and_hazards.md R450). Bus accesses and events are
steps of the block; a change of an input port and a reset are the environment's own (logs 8, 9, 14). -/
inductive Delivery where
  /-- A bus read of `width` bits. -/
  | read (addr : BitVec 20) (width : Nat)
  /-- A bus write of `width` bits. -/
  | write (addr : BitVec 20) (width : Nat) (value : W32)
  /-- An event word on `adc_evt`. -/
  | event (word : BitVec 16)
  /-- The port `enc_cnt[a]` takes a value. -/
  | setEncCnt (a : Axis) (value : BitVec 16)
  /-- The port `pwm_cnt[a]` takes a value. -/
  | setPwmCnt (a : Axis) (value : BitVec 16)
  /-- The platform asserts reset. -/
  | reset
deriving DecidableEq, Repr

/-- The state of the block, and the model's own fields below it. -/
structure State where
  /-- The global registers. -/
  g : GlobalRegs
  /-- The sequencer. -/
  seq : SeqRegs
  /-- The brake aggregator. -/
  brk : BrkRegs
  /-- The registers of the two axes. -/
  ax : PerAxis AxisRegs
  /-- The storage of `MAP` and `HARM`. -/
  mem : Memory
  /-- MODEL: how many resets there have been; the free reset contents depend on it (log 1). -/
  epoch : Nat
  /-- MODEL: how many deliveries have been taken; the free draws depend on it (logs 4, 7). -/
  draws : Nat
  /-- MODEL: the values on the ports `enc_cnt[a]` (log 8). -/
  encCnt : PerAxis (BitVec 16)
  /-- MODEL: the values on the ports `pwm_cnt[a]` (log 8). -/
  pwmCnt : PerAxis (BitVec 16)
  /-- MODEL: the response of the last bus access (log 10). -/
  bus : BusResponse
  /-- MODEL: what the environment does next, in order (log 9). -/
  pending : List Delivery
deriving DecidableEq, Repr

/-- No step of the block ever stops (60_exceptions.md R400), so a step has no fault to stop with: the type has no constructor.
What the spec calls a fault is the next state of `fault` in Machine/Ops.lean. -/
inductive Fault where
deriving DecidableEq, Repr

/-- Why a step has no meaning. -/
inductive Refusal where
  /-- Raised by `exec` for an instruction that has no meaning yet; none is left. Safe: the model stops. -/
  | notModelled (mnemonic : String)
deriving DecidableEq, Repr

/-- The registers of an axis after reset (70_reset_and_hazards.md R451). -/
def AxisRegs.reset : AxisRegs where
  ctl := { cmdStatus := .ok, enable := false, phaseSrc := false, error := 0#10 }
  samp :=
    { ready := false, overrun := false, currGain := 0#32, dcB := 0#32, dcC := 0#32, sampleB := 0#32,
      sampleC := 0#32, stageB := 0#32, stageC := 0#32 }
  pll :=
    { cpr := 8192#32, polePairs := 1#32, encOffset := 0#32, encPrev := 0#16, encPos := 0#32, encPosMod := 0#32,
      elecPhase := 0#32, pos := 0#32, vel := 0#32, kp := 0#32, ki := 0#32, bw := 0#32 }
  foc :=
    { modSat := false, phaseExt := 0#32, idSet := 0#32, iqSet := 0#32, kpI := 0#32, kiI := 0#32, vIntD := 0#32,
      vIntQ := 0#32, idMeas := 0#32, iqMeas := 0#32, modD := 0#32, modQ := 0#32, ibus := 0#32, vAlpha := 0#32,
      vBeta := 0#32 }
  pwm :=
    { period := 0#16, deadline := 0#16, cmpA := 0#16, cmpB := 0#16, cmpC := 0#16,
      tlog := Vector.replicate Config.logDepth 0#16, tlogIdx := 0#4, tlast := 0#16 }
  acog := { mapValid := false, pos := 0#32, ff := 0#32, scratch := { written := [], fits := Nat.zero_le _ } }

/-- The state after reset (70_reset_and_hazards.md R451). The model's own fields are DESIGN CHOICES of logs 1, 2, 4, 8, 9 and 10. -/
def State.reset : State where
  g :=
    { gcmdStatus := .ok, irqEn := 0#3, vbus := 0#32, t := 0#32, dcTau := 0x3E4CCCCD#32,
      modLimitFrac := 0x3E4CCCCD#32, brakeR := 0#32, brakeDutyMax := 0x3F666666#32 }
  seq :=
    { state := 0#2, done := ⟨false, false⟩, run := false, bad := false, faultInfo := 0#32,
      trigSel := ⟨.ax0, .ax0⟩ }
  brk := { duty := 0#32, reported := ⟨false, false⟩ }
  ax := ⟨AxisRegs.reset, AxisRegs.reset⟩
  mem := []
  epoch := 0
  draws := 0
  encCnt := ⟨0#16, 0#16⟩
  pwmCnt := ⟨0#16, 0#16⟩
  bus := { error := false, rdata := none }
  pending := []

end Sys2Proof.Machine
end

