-- ==== Sys2Proof/Machine/Ops.lean ====
section
/-!
DEFINITION. The named operations the meanings share: registers of an axis, storage of the map and harmonic windows, free draws,
status codes, the brake aggregator (42_foc.md R320, R321) and the one fault operation (60_exceptions.md R405).
-/

namespace Sys2Proof.Machine

/-! ### One value per axis, one value per ADC unit -/

/-- The value of an axis. -/
def PerAxis.get {α : Type} (p : PerAxis α) : Axis → α
  | .ax0 => p.ax0
  | .ax1 => p.ax1

/-- The value of an axis replaced. -/
def PerAxis.set {α : Type} (p : PerAxis α) (a : Axis) (v : α) : PerAxis α :=
  match a with
  | .ax0 => { p with ax0 := v }
  | .ax1 => { p with ax1 := v }

/-- The value of a unit. -/
def PerUnit.get {α : Type} (p : PerUnit α) : AdcUnit → α
  | .unit0 => p.unit0
  | .unit1 => p.unit1

/-- The value of a unit replaced. -/
def PerUnit.set {α : Type} (p : PerUnit α) (u : AdcUnit) (v : α) : PerUnit α :=
  match u with
  | .unit0 => { p with unit0 := v }
  | .unit1 => { p with unit1 := v }

/-! ### Registers of an axis -/

/-- The registers of axis `a`. -/
def State.axis (s : State) (a : Axis) : AxisRegs := s.ax.get a

/-- The registers of axis `a` replaced. -/
def State.setAxis (s : State) (a : Axis) (r : AxisRegs) : State := { s with ax := s.ax.set a r }

/-- The control registers of axis `a` replaced. -/
def State.setCtl (s : State) (a : Axis) (r : CtlRegs) : State := s.setAxis a { s.axis a with ctl := r }

/-- The sampler's registers of axis `a` replaced. -/
def State.setSamp (s : State) (a : Axis) (r : SampRegs) : State := s.setAxis a { s.axis a with samp := r }

/-- The estimator's registers of axis `a` replaced. -/
def State.setPll (s : State) (a : Axis) (r : PllRegs) : State := s.setAxis a { s.axis a with pll := r }

/-- The current controller's registers of axis `a` replaced. -/
def State.setFoc (s : State) (a : Axis) (r : FocRegs) : State := s.setAxis a { s.axis a with foc := r }

/-- The timings and the log of axis `a` replaced. -/
def State.setPwm (s : State) (a : Axis) (r : PwmRegs) : State := s.setAxis a { s.axis a with pwm := r }

/-- The anti-cogging registers of axis `a` replaced. -/
def State.setAcog (s : State) (a : Axis) (r : AcogRegs) : State := s.setAxis a { s.axis a with acog := r }

/-! ### Status codes -/

/-- The code of a status (30_encoding.md R190). -/
def Status.code : Status → BitVec 4
  | .ok => 0#4
  | .eIllegal => 1#4
  | .eArg => 2#4
  | .eSize => 3#4
  | .eDisabled => 4#4
  | .eTiming => 5#4
  | .eModulation => 6#4
  | .eUnstable => 7#4

/-- `AX[a].CMD_STATUS <- code` (30_encoding.md R191): the end of an axis command, `done` and `reject` of 00_scope.md R14 alike. -/
def State.setStatus (s : State) (a : Axis) (c : Status) : State := s.setCtl a { (s.axis a).ctl with cmdStatus := c }

/-- `G.GCMD_STATUS <- code` (30_encoding.md R191). -/
def State.setGStatus (s : State) (c : Status) : State := { s with g := { s.g with gcmdStatus := c } }

/-! ### Free draws -/

/-- `nan_draw` of operation `site` of this delivery (00_scope.md R24): some NaN, a free draw per operation (log 4). -/
def State.nanDraw (s : State) (site : Nat) : F32 := asNaN (Config.nanRaw s.draws site)

/-! ### Storage of the map and harmonic windows -/

/-- The byte written at an address, if one was. -/
def Memory.get? : Memory → Nat → Option Byte
  | [], _ => none
  | (k, b) :: m, n => if k = n then some b else Memory.get? m n

/-- A byte written at an address, the addresses kept rising. -/
def Memory.set : Memory → Nat → Byte → Memory
  | [], n, v => [(n, v)]
  | (k, b) :: m, n, v =>
    if n < k then (n, v) :: (k, b) :: m
    else if n = k then (n, v) :: m
    else (k, b) :: Memory.set m n v

/-- The canonical form: addresses strictly rising (log 1). -/
def Memory.wf : Memory → Bool
  | [] => true
  | [_] => true
  | c :: d :: m => decide (c.1 < d.1) && Memory.wf (d :: m)

/-- The byte at an address of the storage: the byte written since the last reset, else the free reset contents
(70_reset_and_hazards.md R453, log 1). -/
def State.byteAt (s : State) (n : Nat) : Byte := (Memory.get? s.mem n).getD (Config.resetByte s.epoch n)

/-- The word at a word address of the storage, little-endian (20_memory.md R137). -/
def State.wordAt (s : State) (n : Nat) : W32 :=
  s.byteAt (n + 3) ++ (s.byteAt (n + 2) ++ (s.byteAt (n + 1) ++ s.byteAt n))

/-- A word written to a word address of the storage, little-endian (20_memory.md R137). -/
def Memory.setWord (m : Memory) (n : Nat) (v : W32) : Memory :=
  Memory.set (Memory.set (Memory.set (Memory.set m n (v.extractLsb' 0 8)) (n + 1) (v.extractLsb' 8 8))
    (n + 2) (v.extractLsb' 16 8)) (n + 3) (v.extractLsb' 24 8)

/-- Consecutive words written from a word address on. -/
def Memory.setWords (m : Memory) (n : Nat) : List W32 → Memory
  | [] => m
  | v :: vs => Memory.setWords (Memory.setWord m n v) (n + 4) vs

/-- The storage replaced. -/
def State.setMem (s : State) (m : Memory) : State := { s with mem := m }

/-- The address of `MAP[a][i]` (20_memory.md R134). -/
def mapAddr (a : Axis) (i : Nat) : Nat := 0x10000 + 0x8000 * a.toNat + 4 * i

/-- The address of harmonic entry `j` of axis `a` (20_memory.md R135). -/
def harmAddr (a : Axis) (j : Nat) : Nat := 0x400 + 0x200 * a.toNat + 16 * j

/-- `MAP[a][i]` (10_state.md R95). -/
def State.mapEntry (s : State) (a : Axis) (i : Nat) : F32 := s.wordAt (mapAddr a i)

/-- One harmonic tuple (10_state.md R96). -/
structure Harmonic where
  /-- `INDEX`, signed. -/
  index : W32
  /-- `RE`. -/
  re : F32
  /-- `IM`. -/
  im : F32
deriving DecidableEq, Repr

/-- `HARM[a][j]` (10_state.md R96). -/
def State.harmEntry (s : State) (a : Axis) (j : Nat) : Harmonic where
  index := s.wordAt (harmAddr a j)
  re := s.wordAt (harmAddr a j + 4)
  im := s.wordAt (harmAddr a j + 8)

/-- Harmonic tuples written to consecutive entries, 16 bytes apart, the reserved fourth word of each left alone
(20_memory.md R135). -/
def Memory.setHarmonics (m : Memory) (n : Nat) : List Harmonic → Memory
  | [] => m
  | h :: hs => Memory.setHarmonics (Memory.setWords m n [h.index, h.re, h.im]) (n + 16) hs

/-! ### Brake aggregator -/

/-- `AX[a].CTRL.ENABLE`. -/
def State.enabled (s : State) (a : Axis) : Bool := (s.axis a).ctl.enable

/-- What axis `a` adds to the bus current: its `IBUS` when enabled, else `+0.0` (42_foc.md R321). -/
def State.ibusOf (s : State) (a : Axis) : F32 := if s.enabled a then (s.axis a).foc.ibus else fZero

/-- The brake duty `brk_aggregate` computes (42_foc.md R321). No NaN reaches the result, so the NaN draws do not show. -/
def brakeDutyOf (s : State) : F32 :=
  let sum := fadd (s.nanDraw 100) (s.ibusOf .ax0) (s.ibusOf .ax1)
  let neg := fneg sum
  let ib := if fgt neg fZero then neg else fZero
  let vb := s.g.vbus
  let d := if isFinite vb && fgt vb fZero then
      fdiv (s.nanDraw 102) (fmul (s.nanDraw 101) ib s.g.brakeR) vb
    else fZero
  let d0 := if isNaN d then fZero else d
  if fgt d0 s.g.brakeDutyMax then s.g.brakeDutyMax else d0

/-- `G.BRAKE_DUTY` and `G.BRAKE_REPORTED` written. -/
def State.setBrk (s : State) (r : BrkRegs) : State := { s with brk := r }

/-- `brk_try` (42_foc.md R320): no axis enabled gives duty `+0.0`; every enabled axis reported gives the aggregate; either
way the reports are cleared; else nothing changes. -/
def brkTry (s : State) : State :=
  if !s.enabled .ax0 && !s.enabled .ax1 then s.setBrk { duty := fZero, reported := ⟨false, false⟩ }
  else if (!s.enabled .ax0 || s.brk.reported.ax0) && (!s.enabled .ax1 || s.brk.reported.ax1) then
    s.setBrk { duty := brakeDutyOf s, reported := ⟨false, false⟩ }
  else s

/-- `brk_report(a)` (42_foc.md R320). -/
def brkReport (a : Axis) (s : State) : State :=
  brkTry (s.setBrk { s.brk with reported := s.brk.reported.set a true })

/-! ### Disable and fault -/

/-- `on_disable(a)` (44_system.md R384); `pwm_en[a]` follows `ENABLE` (10_state.md R106). -/
def onDisable (a : Axis) (s : State) : State :=
  brkTry (s.setBrk { s.brk with reported := s.brk.reported.set a false })

/-- `ENABLE <- 0`, with the effects of 44_system.md R384 when it was 1. -/
def disableAxis (a : Axis) (s : State) : State :=
  if s.enabled a then onDisable a (s.setCtl a { (s.axis a).ctl with enable := false }) else s

/-- The `ERROR` bits the block sets itself (10_state.md R73). -/
inductive BlockError where
  | adcSeq
  | gainInvalid
  | focTiming
  | modulation
deriving DecidableEq, Repr

/-- The `ERROR` bit as a mask (10_state.md R73). -/
def BlockError.mask : BlockError → BitVec 10
  | .adcSeq => 0x001#10
  | .gainInvalid => 0x002#10
  | .focTiming => 0x004#10
  | .modulation => 0x008#10

/-- `ERROR <- ERROR | mask` on one axis. -/
def orError (a : Axis) (mask : BitVec 10) (s : State) : State :=
  s.setCtl a { (s.axis a).ctl with error := (s.axis a).ctl.error ||| mask }

/-- One axis of `fault(axes, BIT)` (60_exceptions.md R405). -/
def faultAxis (e : BlockError) (a : Axis) (s : State) : State := disableAxis a (orError a e.mask s)

/-- `fault(axes, BIT)` (60_exceptions.md R405), the axes in ascending order. The block takes no other exception, and there is no
return from one (R400, R407). -/
def fault (axes : List Axis) (e : BlockError) (s : State) : State :=
  axes.foldl (fun s a => faultAxis e a s) s

end Sys2Proof.Machine
end

