-- ==== Sys2Proof/Machine/Flags.lean ====
section
/-!
DEFINITION. The flags that are computed or follow a rule of their own (10_state.md R60, R72, R108): `PLL_UNSTABLE`, the
conditions of `IRQ_STATUS`, `READY` with `OVERRUN`, and the write-1-to-clear updates.
-/

namespace Sys2Proof.Machine

/-- `T·Kp < 1` as the block checks it (41_pll.md R269, R272). -/
def pllStable (nan t kp : F32) : Bool := flt (fmul nan t kp) fOne

/-- `STATUS.PLL_UNSTABLE`, recomputed at every read (10_state.md R72). -/
def pllUnstable (s : State) (a : Axis) : Bool := !pllStable (s.nanDraw 110) s.g.t (s.axis a).pll.kp

/-- `IRQ_STATUS.FAULT` (10_state.md R60). -/
def faultFlag (s : State) : Bool := (s.axis .ax0).ctl.error != 0#10 || (s.axis .ax1).ctl.error != 0#10

/-- `READY` raised for a completed sample, `OVERRUN` when it already stood (40_sequencer.md R232). -/
def raiseReady (r : SampRegs) : SampRegs := { r with ready := true, overrun := r.overrun || r.ready }

/-- A `W1C` write to `STATUS`: bit 0 clears `READY`, bit 1 clears `OVERRUN` (10_state.md R51, R72). -/
def clearStatus (v : W32) (r : SampRegs) : SampRegs :=
  { r with ready := r.ready && !v.getLsbD 0, overrun := r.overrun && !v.getLsbD 1 }

/-- A `W1C` write to `ERROR` (10_state.md R51, R73). -/
def clearError (v : W32) (e : BitVec 10) : BitVec 10 := e &&& ~~~(v.extractLsb' 0 10)

end Sys2Proof.Machine
end

