-- ==== Sys2Proof/WellFormed.lean ====
section
/-!
DEFINITION. Which terms of `Instr` some word stands for: bit 1 of an event's `UNIT` says which of the two events it is.
-/

namespace Sys2Proof

/-- Every term but an event whose `UNIT[1]` contradicts its constructor (30_encoding.md R189, log 19). -/
def Instr.wellFormed : Instr → Bool
  | .nop _ | .pllInit _ | .pllUpdate _ | .pllSetBw _ | .focStep _ | .voltStep _ => true
  | .acogLookup _ | .acogCompress _ | .acogDecompress _ | .gnop | .seqStart => true
  | .adcEoc _ _ unit _ => !unit.getLsbD 1
  | .adcEocForeign _ _ unit _ => unit.getLsbD 1

end Sys2Proof
end

