-- ==== Sys2Proof/Decode.lean ====
section
/-!
DEFINITION. The decoder of 30_encoding.md R192, total on every word of every format, and the encoder written from the same
tables (R181, R182, R184, R186, R187, R189).
-/

namespace Sys2Proof

/-- Why a command word is illegal (30_encoding.md R188). -/
inductive Illegal where
  /-- `RSV` (bits 31:8) is not 0. -/
  | rsvNonzero
  /-- `OPC` (bits 7:0) is a reserved value. -/
  | opcReserved
deriving DecidableEq, Repr

/-- `OPC`, bits 7:0 of a command word (30_encoding.md R181). -/
def cmdOpc (w : W32) : BitVec 8 := w.extractLsb' 0 8

/-- `RSV`, bits 31:8 of a command word (30_encoding.md R181). -/
def cmdRsv (w : W32) : BitVec 24 := w.extractLsb' 8 24

/-- The axis command of an `OPC` (30_encoding.md R186). -/
def axisOpcode (a : Axis) (opc : BitVec 8) : Except Illegal Instr :=
  match opc.toNat with
  | 0x00 => .ok (.nop a)
  | 0x01 => .ok (.pllInit a)
  | 0x02 => .ok (.pllUpdate a)
  | 0x03 => .ok (.pllSetBw a)
  | 0x10 => .ok (.focStep a)
  | 0x11 => .ok (.voltStep a)
  | 0x20 => .ok (.acogLookup a)
  | 0x21 => .ok (.acogCompress a)
  | 0x22 => .ok (.acogDecompress a)
  | _ => .error .opcReserved

/-- The global command of an `OPC` (30_encoding.md R187). -/
def globalOpcode (opc : BitVec 8) : Except Illegal Instr :=
  match opc.toNat with
  | 0x00 => .ok .gnop
  | 0x01 => .ok .seqStart
  | _ => .error .opcReserved

/-- `decode_cmd` on the port of axis `a` (30_encoding.md R192). -/
def decodeCmd (a : Axis) (w : W32) : Except Illegal Instr :=
  if cmdRsv w ≠ 0#24 then .error .rsvNonzero else axisOpcode a (cmdOpc w)

/-- `decode_gcmd` (30_encoding.md R192). -/
def decodeGcmd (w : W32) : Except Illegal Instr :=
  if cmdRsv w ≠ 0#24 then .error .rsvNonzero else globalOpcode (cmdOpc w)

/-- `RAW`, bits 11:0 of an event word (30_encoding.md R184). -/
def evtRaw (e : BitVec 16) : BitVec 12 := e.extractLsb' 0 12

/-- `UNIT`, bits 13:12 of an event word (30_encoding.md R184). -/
def evtUnit (e : BitVec 16) : BitVec 2 := e.extractLsb' 12 2

/-- `TRIG`, bit 14 of an event word (30_encoding.md R184). -/
def evtTrig (e : BitVec 16) : Axis := Axis.ofBool (e.getLsbD 14)

/-- `CHAN`, bit 15 of an event word (30_encoding.md R184). -/
def evtChan (e : BitVec 16) : Axis := Axis.ofBool (e.getLsbD 15)

/-- `decode_evt` (30_encoding.md R189, R192): no event word is illegal. -/
def decodeEvt (e : BitVec 16) : Instr :=
  if e.getLsbD 13 then .adcEocForeign (evtChan e) (evtTrig e) (evtUnit e) (evtRaw e)
  else .adcEoc (evtChan e) (evtTrig e) (evtUnit e) (evtRaw e)

/-- The decoder: each word of each port is one instruction or is illegal by name (30_encoding.md R192). -/
def decode : Wire → Except Illegal Instr
  | .cmd a w => decodeCmd a w
  | .gcmd w => decodeGcmd w
  | .evt e => .ok (decodeEvt e)

/-- The event word of four fields, `CHAN || TRIG || UNIT || RAW` (30_encoding.md R184). -/
def evtWord (chan trig : Axis) (unit : BitVec 2) (raw : BitVec 12) : BitVec 16 :=
  BitVec.ofBool chan.toBool ++ (BitVec.ofBool trig.toBool ++ (unit ++ raw))

/-- The encoder: the port an instruction arrives on and its word (30_encoding.md R186, R187, R189). -/
def encode : Instr → Wire
  | .nop a => .cmd a 0x00000000#32
  | .pllInit a => .cmd a 0x00000001#32
  | .pllUpdate a => .cmd a 0x00000002#32
  | .pllSetBw a => .cmd a 0x00000003#32
  | .focStep a => .cmd a 0x00000010#32
  | .voltStep a => .cmd a 0x00000011#32
  | .acogLookup a => .cmd a 0x00000020#32
  | .acogCompress a => .cmd a 0x00000021#32
  | .acogDecompress a => .cmd a 0x00000022#32
  | .gnop => .gcmd 0x00000000#32
  | .seqStart => .gcmd 0x00000001#32
  | .adcEoc chan trig unit raw => .evt (evtWord chan trig unit raw)
  | .adcEocForeign chan trig unit raw => .evt (evtWord chan trig unit raw)

/-- Where a bare table word is taken to arrive: 16 bits on `adc_evt`, 32 bits on `AX[0].CMD`. The bits of a word do not say
which port it is written to, so the two rows of format `GCMD` share their words with `NOP` and `PLL_INIT` (log 12). -/
def tableWire (nbits w : Nat) : Wire :=
  if nbits ≤ 16 then .evt (BitVec.ofNat 16 w) else .cmd .ax0 (BitVec.ofNat 32 w)

/-- The instruction the decoder reads from a bare word of spec/opcode_table.json (log 12). -/
def decodeTableWord (nbits w : Nat) : Option Instr :=
  match decode (tableWire nbits w) with
  | .ok i => some i
  | .error _ => none

end Sys2Proof
end

