-- ==== Sys2Proof/Machine/Operands.lean ====
section
/-!
DEFINITION. The operands of commands and events: the fields of an event (30_encoding.md R185), what a sequencer state serves
(40_sequencer.md R222), the phase source (42_foc.md R292), the input ports (10_state.md R107), the sizes and indices of the
anti-cogging map (43_anticogging.md R341, R342, R348).
-/

namespace Sys2Proof.Machine

/-- `raw = zext(EVT[ADC_BITS-1:0])` (30_encoding.md R185). -/
def adcRaw (raw : BitVec 12) : Nat := raw.toNat % 2 ^ Config.adcBits

/-- The unit of the pair an `ADC_EOC` names by `UNIT[0]` (40_sequencer.md R221). -/
def adcUnit (unit : BitVec 2) : AdcUnit := if unit.getLsbD 0 then .unit1 else .unit0

/-- What the conversions of a sequencer state measure (40_sequencer.md R222). -/
inductive SeqKind where
  /-- Phase current. -/
  | cur
  /-- Zero-current offset. -/
  | dc
deriving DecidableEq, Repr

/-- `axis(s)` (40_sequencer.md R222): axis 0 in states 0 and 3, axis 1 in states 1 and 2. -/
def seqAxis (st : BitVec 2) : Axis := if st = 0#2 ∨ st = 3#2 then .ax0 else .ax1

/-- `kind(s)` (40_sequencer.md R222): current in states 0 and 2, offset in states 1 and 3. -/
def seqKind (st : BitVec 2) : SeqKind := if st = 0#2 ∨ st = 2#2 then .cur else .dc

/-- `enc_cnt[a]`, sampled now (10_state.md R107). -/
def State.sampleEnc (s : State) (a : Axis) : BitVec 16 := s.encCnt.get a

/-- `pwm_cnt[a]`, sampled now (10_state.md R107). -/
def State.samplePwm (s : State) (a : Axis) : BitVec 16 := s.pwmCnt.get a

/-- The electrical phase `FOC_STEP` uses (42_foc.md R292). -/
def focPhase (r : AxisRegs) : F32 := if r.ctl.phaseSrc then r.foc.phaseExt else r.pll.elecPhase

/-- `emod(a, n)` (00_scope.md R11). -/
def emod (a n : Int) : Int := a % n

/-- The transform lengths `ACOG_COMPRESS` and `ACOG_DECOMPRESS` support (43_anticogging.md R342). -/
def supportedSize (l : Nat) : Bool :=
  decide (Config.fftMin ≤ l) && decide (l ≤ Config.mapDepth) && decide (2 ^ Nat.log2 l = l)

/-- The index of a lookup position (43_anticogging.md R341). -/
def lookupIndex (pos : F32) (cpr : Nat) : Nat := (emod (fTrunc pos) cpr).toNat

/-- The bin a stored harmonic index names at length `l`, if it fits (43_anticogging.md R348). -/
def harmonicBin (index : W32) (l : Nat) : Option Nat :=
  if 0 ≤ index.toInt ∧ index.toInt < (l / 2 : Nat) then some index.toInt.toNat else none

end Sys2Proof.Machine
end

