-- ==== Sys2Proof/Machine/System.lean ====
section
/-!
DEFINITION. `NOP`, `GNOP` and `SEQ_START` (44_system.md R380 to R382), and the writes that act on the enable flag
(R383, 10_state.md R74).
-/

namespace Sys2Proof.Machine

/-- `NOP` (44_system.md R380). -/
def execNop (a : Axis) (s : State) : Host.Outcome State Fault Refusal := .next (s.setStatus a .ok)

/-- `GNOP` (44_system.md R381). -/
def execGnop (s : State) : Host.Outcome State Fault Refusal := .next (s.setGStatus .ok)

/-- The sequencer restarted from state 0; `SEQ_FAULT_INFO` stays (44_system.md R382). -/
def seqRestart (r : SeqRegs) : SeqRegs :=
  { r with state := 0#2, done := ⟨false, false⟩, bad := false, trigSel := ⟨.ax0, .ax0⟩, run := true }

/-- `SEQ_START` (44_system.md R382). -/
def execSeqStart (s : State) : Host.Outcome State Fault Refusal :=
  .next ({ s with seq := seqRestart s.seq }.setGStatus .ok)

/-- A host write to `AX[a].CTRL` (44_system.md R383): `PHASE_SRC` is stored; `ENABLE` rises only with `ERROR = 0`, and
falls with the effects of R384. -/
def writeCtrl (a : Axis) (v : W32) (s : State) : State :=
  let s1 := s.setCtl a { (s.axis a).ctl with phaseSrc := v.getLsbD 1 }
  if v.getLsbD 0 then
    if (s.axis a).ctl.error = 0#10 then s1.setCtl a { (s1.axis a).ctl with enable := true } else s1
  else disableAxis a s1

/-- A host write to `AX[a].ERROR_SET` (10_state.md R74): the bits are set, and any of bits 3:0 also disables the axis
(log 18). -/
def writeErrorSet (a : Axis) (v : W32) (s : State) : State :=
  let s1 := orError a (v.extractLsb' 0 10) s
  if v.extractLsb' 0 4 = 0#4 then s1 else disableAxis a s1

end Sys2Proof.Machine
end

