-- ==== Sys2Proof/Machine/Bus.lean ====
section
/-!
DEFINITION. The host bus (20_memory.md): the address map (R131 to R136, R147), reads (R143) and the writes that are not
commands (R144, 10_state.md R51).
-/

namespace Sys2Proof.Machine

/-- The global registers but the command port (20_memory.md R132). -/
inductive GReg where
  | id | gcmdStatus | seqStatus | seqFaultInfo | trigSel | irqEn | irqStatus | vbus | t | dcTau | modLimitFrac
  | brakeR | brakeDutyMax | brakeDuty | brakeReported | params
deriving DecidableEq, Repr

/-- The registers of an axis but the command port (20_memory.md R133). -/
inductive AxReg where
  | cmdStatus | ctrl | status | error | errorSet | currGain | dcB | dcC | sampleB | sampleC | cpr | polePairs
  | encOffset | encPrev | encPos | encPosMod | elecPhase | pllPos | pllVel | pllKp | pllKi | pllBw | phaseExt
  | idSet | iqSet | kpI | kiI | vIntD | vIntQ | idMeas | iqMeas | modD | modQ | ibus | vAlpha | vBeta
  | pwmPeriod | deadline | pwmCmpA | pwmCmpB | pwmCmpC | tlast | tlogIdx | acogCtrl | acogPos | acogFf
  | tlog (i : Nat)
deriving DecidableEq, Repr

/-- What a word address of the bus names (20_memory.md R131). -/
inductive Loc where
  /-- `G.GCMD`. -/
  | gcmd
  /-- `AX[a].CMD`. -/
  | cmd (a : Axis)
  /-- A global register. -/
  | global (r : GReg)
  /-- A register of an axis. -/
  | axis (a : Axis) (r : AxReg)
  /-- A word of `MAP` or `HARM`, at its own address. -/
  | storage (n : Nat)
  /-- A hole or a reserved word: reads 0, ignores writes (20_memory.md R135, R136). -/
  | hole
  /-- An unmapped address (20_memory.md R147). -/
  | unmapped
deriving DecidableEq, Repr

/-- The global block `0x000` to `0x0FF` by offset (20_memory.md R132). -/
def globalLoc (off : Nat) : Loc :=
  match off with
  | 0x00 => .global .id
  | 0x04 => .gcmd
  | 0x08 => .global .gcmdStatus
  | 0x0C => .global .seqStatus
  | 0x10 => .global .seqFaultInfo
  | 0x14 => .global .trigSel
  | 0x18 => .global .irqEn
  | 0x1C => .global .irqStatus
  | 0x20 => .global .vbus
  | 0x24 => .global .t
  | 0x28 => .global .dcTau
  | 0x2C => .global .modLimitFrac
  | 0x30 => .global .brakeR
  | 0x34 => .global .brakeDutyMax
  | 0x38 => .global .brakeDuty
  | 0x3C => .global .brakeReported
  | 0x40 => .global .params
  | _ => .hole

/-- The timing log's offsets, `0xC0 + 4*i` for `i < LOG_DEPTH`; else a hole (20_memory.md R133). -/
def tlogLoc (a : Axis) (off : Nat) : Loc :=
  if 0xC0 ≤ off ∧ (off - 0xC0) / 4 < Config.logDepth then .axis a (.tlog ((off - 0xC0) / 4)) else .hole

/-- The block of axis `a` by offset (20_memory.md R133). -/
def axisLoc (a : Axis) (off : Nat) : Loc :=
  match off with
  | 0x00 => .cmd a
  | 0x04 => .axis a .cmdStatus
  | 0x08 => .axis a .ctrl
  | 0x0C => .axis a .status
  | 0x10 => .axis a .error
  | 0x14 => .axis a .errorSet
  | 0x18 => .axis a .currGain
  | 0x1C => .axis a .dcB
  | 0x20 => .axis a .dcC
  | 0x24 => .axis a .sampleB
  | 0x28 => .axis a .sampleC
  | 0x2C => .axis a .cpr
  | 0x30 => .axis a .polePairs
  | 0x34 => .axis a .encOffset
  | 0x38 => .axis a .encPrev
  | 0x3C => .axis a .encPos
  | 0x40 => .axis a .encPosMod
  | 0x44 => .axis a .elecPhase
  | 0x48 => .axis a .pllPos
  | 0x4C => .axis a .pllVel
  | 0x50 => .axis a .pllKp
  | 0x54 => .axis a .pllKi
  | 0x58 => .axis a .pllBw
  | 0x5C => .axis a .phaseExt
  | 0x60 => .axis a .idSet
  | 0x64 => .axis a .iqSet
  | 0x68 => .axis a .kpI
  | 0x6C => .axis a .kiI
  | 0x70 => .axis a .vIntD
  | 0x74 => .axis a .vIntQ
  | 0x78 => .axis a .idMeas
  | 0x7C => .axis a .iqMeas
  | 0x80 => .axis a .modD
  | 0x84 => .axis a .modQ
  | 0x88 => .axis a .ibus
  | 0x8C => .axis a .vAlpha
  | 0x90 => .axis a .vBeta
  | 0x94 => .axis a .pwmPeriod
  | 0x98 => .axis a .deadline
  | 0x9C => .axis a .pwmCmpA
  | 0xA0 => .axis a .pwmCmpB
  | 0xA4 => .axis a .pwmCmpC
  | 0xA8 => .axis a .tlast
  | 0xAC => .axis a .tlogIdx
  | 0xB0 => .axis a .acogCtrl
  | 0xB4 => .axis a .acogPos
  | 0xB8 => .axis a .acogFf
  | _ => tlogLoc a off

/-- A harmonic window by offset: entry `off / 16`, its fourth word reserved (20_memory.md R135). -/
def harmLoc (a : Axis) (off : Nat) : Loc :=
  if off / 16 < Config.nHarm ∧ off % 16 < 12 then .storage (0x400 + 0x200 * a.toNat + off) else .hole

/-- A map window by offset (20_memory.md R134). -/
def mapLoc (a : Axis) (off : Nat) : Loc :=
  if off / 4 < Config.mapDepth then .storage (0x10000 + 0x8000 * a.toNat + off) else .hole

/-- The regions of the host bus space (20_memory.md R131). -/
def locate (addr : BitVec 20) : Loc :=
  let n := addr.toNat
  if n < 0x100 then globalLoc n
  else if n < 0x200 then axisLoc .ax0 (n - 0x100)
  else if n < 0x300 then axisLoc .ax1 (n - 0x200)
  else if n < 0x400 then .unmapped
  else if n < 0x600 then harmLoc .ax0 (n - 0x400)
  else if n < 0x800 then harmLoc .ax1 (n - 0x600)
  else if n < 0x10000 then .unmapped
  else if n < 0x18000 then mapLoc .ax0 (n - 0x10000)
  else if n < 0x20000 then mapLoc .ax1 (n - 0x18000)
  else .unmapped

/-- An access is accepted: 32 bits wide, aligned, mapped (20_memory.md R140). -/
def busAccepts (addr : BitVec 20) (width : Nat) : Bool :=
  decide (width = 32) && decide (addr.toNat % 4 = 0) && decide (locate addr ≠ .unmapped)

/-- A flag at a bit of a register. -/
def bitAt (b : Bool) (k : Nat) : W32 := if b then BitVec.ofNat 32 (2 ^ k) else 0#32

/-- `G.PARAMS` (10_state.md R58). -/
def paramsWord : W32 :=
  (BitVec.ofNat 5 Config.log2MapDepth).setWidth 32 ||| ((BitVec.ofNat 6 Config.nHarm).setWidth 32 <<< 5) |||
  ((BitVec.ofNat 5 Config.logDepth).setWidth 32 <<< 11) ||| ((BitVec.ofNat 4 Config.adcBits).setWidth 32 <<< 16) |||
  bitAt (decide (Config.pllDetector = .floor)) 20

/-- `G.SEQ_STATUS` (10_state.md R55). -/
def seqStatusWord (r : SeqRegs) : W32 :=
  r.state.setWidth 32 ||| bitAt r.done.unit0 2 ||| bitAt r.done.unit1 3 ||| bitAt r.run 4 ||| bitAt r.bad 5

/-- What a read of a global register returns (10_state.md section 2). -/
def readGlobal (s : State) : GReg → W32
  | .id => Config.idWord
  | .gcmdStatus => s.g.gcmdStatus.code.setWidth 32
  | .seqStatus => seqStatusWord s.seq
  | .seqFaultInfo => s.seq.faultInfo
  | .trigSel => bitAt s.seq.trigSel.unit0.toBool 0 ||| bitAt s.seq.trigSel.unit1.toBool 1
  | .irqEn => s.g.irqEn.setWidth 32
  | .irqStatus => bitAt (s.axis .ax0).samp.ready 0 ||| bitAt (s.axis .ax1).samp.ready 1 ||| bitAt (faultFlag s) 2
  | .vbus => s.g.vbus
  | .t => s.g.t
  | .dcTau => s.g.dcTau
  | .modLimitFrac => s.g.modLimitFrac
  | .brakeR => s.g.brakeR
  | .brakeDutyMax => s.g.brakeDutyMax
  | .brakeDuty => s.brk.duty
  | .brakeReported => bitAt s.brk.reported.ax0 0 ||| bitAt s.brk.reported.ax1 1
  | .params => paramsWord

/-- What a read of a register of axis `a` returns (10_state.md section 3). -/
def readAxis (s : State) (a : Axis) : AxReg → W32
  | .cmdStatus => (s.axis a).ctl.cmdStatus.code.setWidth 32
  | .ctrl => bitAt (s.axis a).ctl.enable 0 ||| bitAt (s.axis a).ctl.phaseSrc 1
  | .status =>
    bitAt (s.axis a).samp.ready 0 ||| bitAt (s.axis a).samp.overrun 1 ||| bitAt (s.axis a).foc.modSat 2 |||
      bitAt (pllUnstable s a) 3
  | .error => (s.axis a).ctl.error.setWidth 32
  | .errorSet => 0#32
  | .currGain => (s.axis a).samp.currGain
  | .dcB => (s.axis a).samp.dcB
  | .dcC => (s.axis a).samp.dcC
  | .sampleB => (s.axis a).samp.sampleB
  | .sampleC => (s.axis a).samp.sampleC
  | .cpr => (s.axis a).pll.cpr
  | .polePairs => (s.axis a).pll.polePairs
  | .encOffset => (s.axis a).pll.encOffset
  | .encPrev => (s.axis a).pll.encPrev.setWidth 32
  | .encPos => (s.axis a).pll.encPos
  | .encPosMod => (s.axis a).pll.encPosMod
  | .elecPhase => (s.axis a).pll.elecPhase
  | .pllPos => (s.axis a).pll.pos
  | .pllVel => (s.axis a).pll.vel
  | .pllKp => (s.axis a).pll.kp
  | .pllKi => (s.axis a).pll.ki
  | .pllBw => (s.axis a).pll.bw
  | .phaseExt => (s.axis a).foc.phaseExt
  | .idSet => (s.axis a).foc.idSet
  | .iqSet => (s.axis a).foc.iqSet
  | .kpI => (s.axis a).foc.kpI
  | .kiI => (s.axis a).foc.kiI
  | .vIntD => (s.axis a).foc.vIntD
  | .vIntQ => (s.axis a).foc.vIntQ
  | .idMeas => (s.axis a).foc.idMeas
  | .iqMeas => (s.axis a).foc.iqMeas
  | .modD => (s.axis a).foc.modD
  | .modQ => (s.axis a).foc.modQ
  | .ibus => (s.axis a).foc.ibus
  | .vAlpha => (s.axis a).foc.vAlpha
  | .vBeta => (s.axis a).foc.vBeta
  | .pwmPeriod => (s.axis a).pwm.period.setWidth 32
  | .deadline => (s.axis a).pwm.deadline.setWidth 32
  | .pwmCmpA => (s.axis a).pwm.cmpA.setWidth 32
  | .pwmCmpB => (s.axis a).pwm.cmpB.setWidth 32
  | .pwmCmpC => (s.axis a).pwm.cmpC.setWidth 32
  | .tlast => (s.axis a).pwm.tlast.setWidth 32
  | .tlogIdx => (s.axis a).pwm.tlogIdx.setWidth 32
  | .acogCtrl => bitAt (s.axis a).acog.mapValid 0
  | .acogPos => (s.axis a).acog.pos
  | .acogFf => (s.axis a).acog.ff
  | .tlog i => (((s.axis a).pwm.tlog[i]?).getD 0#16).setWidth 32

/-- What a read of a location returns (20_memory.md R143); an unmapped address answers 0 (R140). -/
def readLoc (s : State) : Loc → W32
  | .gcmd | .cmd _ => 0#32
  | .global r => readGlobal s r
  | .axis a r => readAxis s a r
  | .storage n => s.wordAt n
  | .hole | .unmapped => 0#32

/-- The response of a bus read: the location's value, or 0 with the error when refused (20_memory.md R140, R143). -/
def busRead (addr : BitVec 20) (width : Nat) (s : State) : BusResponse :=
  if busAccepts addr width then { error := false, rdata := some (readLoc s (locate addr)) }
  else { error := true, rdata := some 0#32 }

/-- Legal for `G.T` and `G.DC_TAU` (10_state.md R62, R63). -/
def legalPositive (v : F32) : Bool := isFinite v && fgt v fZero

/-- Legal for `G.BRAKE_R` (10_state.md R65); `-0.0` compares equal to `+0.0` (log 17). -/
def legalNonneg (v : F32) : Bool := isFinite v && fge v fZero

/-- Legal for `G.MOD_LIMIT_FRAC` and `G.BRAKE_DUTY_MAX` (10_state.md R64, R66). -/
def legalFraction (v : F32) : Bool := isFinite v && fge v fZero && fle v fOne

/-- The global registers replaced. -/
def State.setG (s : State) (r : GlobalRegs) : State := { s with g := r }

/-- A host write to a global register (10_state.md R51 and section 2): `RO` ignores it, `WARL` an illegal value. -/
def writeGlobal (v : W32) (s : State) : GReg → State
  | .irqEn => s.setG { s.g with irqEn := v.extractLsb' 0 3 }
  | .vbus => s.setG { s.g with vbus := v }
  | .t => if legalPositive v then s.setG { s.g with t := v } else s
  | .dcTau => if legalPositive v then s.setG { s.g with dcTau := v } else s
  | .modLimitFrac => if legalFraction v then s.setG { s.g with modLimitFrac := v } else s
  | .brakeR => if legalNonneg v then s.setG { s.g with brakeR := v } else s
  | .brakeDutyMax => if legalFraction v then s.setG { s.g with brakeDutyMax := v } else s
  | .id | .gcmdStatus | .seqStatus | .seqFaultInfo | .trigSel | .irqStatus | .brakeDuty | .brakeReported | .params => s

/-- A host write to `AX[a].CPR` (10_state.md R78): legal, the axis disabled; a new value makes the map unusable. -/
def writeCpr (a : Axis) (v : W32) (s : State) : State :=
  let r := s.axis a
  if s.enabled a = false ∧ 1 ≤ v.toNat ∧ v.toNat ≤ 65536 then
    s.setAxis a { r with pll := { r.pll with cpr := v },
                         acog := { r.acog with mapValid := r.acog.mapValid && decide (v = r.pll.cpr) } }
  else s

/-- A host write to `AX[a].POLE_PAIRS` (10_state.md R79). -/
def writePolePairs (a : Axis) (v : W32) (s : State) : State :=
  if s.enabled a = false ∧ 1 ≤ v.toNat ∧ v.toNat ≤ 65535 then
    s.setPll a { (s.axis a).pll with polePairs := v }
  else s

/-- A host write to a register of axis `a` (10_state.md R51 and section 3). -/
def writeAxis (a : Axis) (v : W32) (s : State) : AxReg → State
  | .ctrl => writeCtrl a v s
  | .status => s.setSamp a (clearStatus v (s.axis a).samp)
  | .error => s.setCtl a { (s.axis a).ctl with error := clearError v (s.axis a).ctl.error }
  | .errorSet => writeErrorSet a v s
  | .currGain => s.setSamp a { (s.axis a).samp with currGain := v }
  | .dcB => s.setSamp a { (s.axis a).samp with dcB := v }
  | .dcC => s.setSamp a { (s.axis a).samp with dcC := v }
  | .cpr => writeCpr a v s
  | .polePairs => writePolePairs a v s
  | .encOffset => s.setPll a { (s.axis a).pll with encOffset := v }
  | .pllPos => s.setPll a { (s.axis a).pll with pos := v }
  | .pllVel => s.setPll a { (s.axis a).pll with vel := v }
  | .pllKp => s.setPll a { (s.axis a).pll with kp := v }
  | .pllKi => s.setPll a { (s.axis a).pll with ki := v }
  | .pllBw => s.setPll a { (s.axis a).pll with bw := v }
  | .phaseExt => s.setFoc a { (s.axis a).foc with phaseExt := v }
  | .idSet => s.setFoc a { (s.axis a).foc with idSet := v }
  | .iqSet => s.setFoc a { (s.axis a).foc with iqSet := v }
  | .kpI => s.setFoc a { (s.axis a).foc with kpI := v }
  | .kiI => s.setFoc a { (s.axis a).foc with kiI := v }
  | .vIntD => s.setFoc a { (s.axis a).foc with vIntD := v }
  | .vIntQ => s.setFoc a { (s.axis a).foc with vIntQ := v }
  | .vAlpha => s.setFoc a { (s.axis a).foc with vAlpha := v }
  | .vBeta => s.setFoc a { (s.axis a).foc with vBeta := v }
  | .pwmPeriod => s.setPwm a { (s.axis a).pwm with period := v.extractLsb' 0 16 }
  | .deadline => s.setPwm a { (s.axis a).pwm with deadline := v.extractLsb' 0 16 }
  | .acogCtrl => s.setAcog a { (s.axis a).acog with mapValid := v.getLsbD 0 }
  | .acogPos => s.setAcog a { (s.axis a).acog with pos := v }
  | .cmdStatus | .sampleB | .sampleC | .encPrev | .encPos | .encPosMod | .elecPhase | .idMeas | .iqMeas | .modD
  | .modQ | .ibus | .pwmCmpA | .pwmCmpB | .pwmCmpC | .tlast | .tlogIdx | .acogFf | .tlog _ => s

end Sys2Proof.Machine
end

