-- ==== Sys2Proof/Machine/Fft.lean ====
section
/-!
DEFINITION. The configuration functions `fft_fwd` and `fft_inv` (00_scope.md R28): any functions with FFT-EXACT4 and FFT-ZERO.
FFT-TOL states no number, so it constrains nothing here (log 6).
-/

namespace Sys2Proof.Machine

/-- A complex value in units of `2^-149`. -/
abbrev CInt := Int × Int

/-- A finite complex binary32 value in units. -/
def cInt (z : Cplx) : CInt := (fInt z.1, fInt z.2)

/-- A whole number of units that is exactly a finite binary32 value. -/
def representable (n : Int) : Bool := isFinite (fOfUnits n) && decide (fInt (fOfUnits n) = n)

/-- Both parts are exactly representable. -/
def cRepresentable (z : CInt) : Bool := representable z.1 && representable z.2

/-- Both parts are finite. -/
def cFinite (z : Cplx) : Bool := isFinite z.1 && isFinite z.2

/-- The radix-4 butterfly at length 4 (00_scope.md R28): its first-stage sums and its four results, in exact arithmetic.
`inverse` takes `+i` for `-i`; the factor `1/4` is not yet applied. -/
def butterfly4 (inverse : Bool) (z0 z1 z2 z3 : CInt) : List CInt × List CInt :=
  let s02 := z0 + z2
  let d02 := z0 - z2
  let s13 := z1 + z3
  let d13 := z1 - z3
  let rot : CInt := if inverse then (-d13.2, d13.1) else (d13.2, -d13.1)
  ([s02, d02, s13, d13], [s02 + s13, d02 + rot, s02 - s13, d02 - rot])

/-- The exact DFT of length 4, when FFT-EXACT4 gives it (00_scope.md R28). -/
def exactDft4 (z : List Cplx) : Option (List CInt) :=
  match z with
  | [z0, z1, z2, z3] =>
    let b := butterfly4 false (cInt z0) (cInt z1) (cInt z2) (cInt z3)
    if z.all cFinite && b.1.all cRepresentable && b.2.all cRepresentable then some b.2 else none
  | _ => none

/-- The exact IDFT of length 4, when FFT-EXACT4 gives it (00_scope.md R28): the quarter of each sum is representable too. -/
def exactIdft4 (z : List Cplx) : Option (List CInt) :=
  match z with
  | [z0, z1, z2, z3] =>
    let b := butterfly4 true (cInt z0) (cInt z1) (cInt z2) (cInt z3)
    let q := b.2.map fun x => (x.1 / 4, x.2 / 4)
    if z.all cFinite && b.1.all cRepresentable && b.2.all cRepresentable && q.all cRepresentable &&
        b.2.all (fun x => decide (x.1 % 4 = 0) && decide (x.2 % 4 = 0)) then some q
    else none
  | _ => none

/-- An exact result as binary32; the sign of an exact zero is not stated and is free (log 6). -/
def fExact (raw : F32) (n : Int) : F32 :=
  if n = 0 then (if fMag raw = 0 then raw else fZero) else fOfUnits n

/-- Exact results as binary32 values, in order from index `k`. -/
def cExact (raw : Nat → Cplx) : Nat → List CInt → List Cplx
  | _, [] => []
  | k, x :: xs => (fExact (raw k).1 x.1, fExact (raw k).2 x.2) :: cExact raw (k + 1) xs

/-- A transform of length `l` with the stated properties, and free beyond them. An input that holds a NaN has none of them, so
its bins are free; 43_anticogging.md R346 says such a map's bins are NaN and rank last (DESIGN CHOICE, log 20). -/
def fftWith (raw : Nat → Cplx) (exact : Option (List CInt)) (l : Nat) (z : List Cplx) : List Cplx :=
  if z.all (fun x => decide (x = (fZero, fZero))) then List.replicate l (fZero, fZero)
  else
    match exact with
    | some xs => cExact raw 0 xs
    | none => (List.range l).map raw

/-- `fft_fwd(L, z)` (00_scope.md R28), for a list of `L` values. -/
def fftFwd (l : Nat) (z : List Cplx) : List Cplx := fftWith (Config.fftFwdRaw l z) (exactDft4 z) l z

/-- `fft_inv(L, z)` (00_scope.md R28), for a list of `L` values. -/
def fftInv (l : Nat) (z : List Cplx) : List Cplx := fftWith (Config.fftInvRaw l z) (exactIdft4 z) l z

end Sys2Proof.Machine
end

