-- ==== Sys2Proof/Machine/Acog.lean ====
section
/-!
DEFINITION. The anti-cogging model (43_anticogging.md): `ACOG_LOOKUP` (R345), `ACOG_COMPRESS` (R346), `ACOG_DECOMPRESS` (R347). They
run whether or not the axis is enabled (44_system.md R385).
-/

namespace Sys2Proof.Machine

/-- `AX[a].CPR` as a number. -/
def State.cprOf (s : State) (a : Axis) : Nat := (s.axis a).pll.cpr.toNat

/-- `ACOG_LOOKUP` (43_anticogging.md R345). -/
def execAcogLookup (a : Axis) (s : State) : Host.Outcome State Fault Refusal :=
  let r := (s.axis a).acog
  if r.mapValid = false then .next ((s.setAcog a { r with ff := fZero }).setStatus a .ok)
  else if !f2iDefined r.pos then .next (s.setStatus a .eArg)
  else if Config.mapDepth < s.cprOf a then .next (s.setStatus a .eSize)
  else .next ((s.setAcog a { r with ff := s.mapEntry a (lookupIndex r.pos (s.cprOf a)) }).setStatus a .ok)

/-- Element `i` of `FFT_SCRATCH[a]`, `i < MAP_DEPTH`: as last written, else the free contents after the reset (10_state.md R105,
93_implementation_defined.md I7, log 2). -/
def State.scratchAt (s : State) (a : Axis) (i : Nat) : Cplx :=
  ((s.axis a).acog.scratch.written[i]?).getD (Config.resetScratch s.epoch a.toNat i)

/-- `FFT_SCRATCH[a][0..L-1]`. -/
def State.scratchSignal (s : State) (a : Axis) (l : Nat) : List Cplx := (List.range l).map (s.scratchAt a)

/-- Elements `0 .. L-1` of a scratch overwritten (43_anticogging.md R350, R354). -/
def overwriteScratch (old : FftScratch) (new : List Cplx) : FftScratch where
  written := (new ++ old.written.drop new.length).take Config.mapDepth
  fits := List.length_take_le _ _

/-- `FFT_SCRATCH[a][0..L-1]` overwritten. -/
def State.fillScratch (s : State) (a : Axis) (new : List Cplx) : State :=
  s.setAcog a { (s.axis a).acog with scratch := overwriteScratch (s.axis a).acog.scratch new }

/-- What `ACOG_COMPRESS` fills the scratch with: the map, imaginary parts `+0.0` (43_anticogging.md R346, R350). -/
def mapSignal (s : State) (a : Axis) (l : Nat) : List Cplx :=
  (List.range l).map fun n => (s.mapEntry a n, fZero)

/-- `key(k)` of a bin (43_anticogging.md R344): the squared magnitude as an order, a NaN below every number. -/
def harmonicKey (x : Cplx) : Int :=
  let m := fmag2 (asNaN 0#32) x.1 x.2
  if isNaN m then -1 else fKey m

/-- The greatest key of the remaining candidates. -/
def maxKey : List (Nat × Int) → Int
  | [] => -1
  | c :: cs => max c.2 (maxKey cs)

/-- `tie_draw(best)` (43_anticogging.md R344): any member, the only one where there is one (log 7). -/
def tieDraw (draw : Nat) : List Nat → Nat
  | [] => 0
  | [k] => k
  | k :: ks => (k :: ks).getD (draw % (k :: ks).length) k

/-- The bins chosen for `n` entries from entry `j` on (43_anticogging.md R344); `none` is a padding entry. -/
def selectBins (tie : Nat → Nat) : Nat → Nat → List (Nat × Int) → List (Option Nat)
  | 0, _, _ => []
  | n + 1, j, [] => none :: selectBins tie n (j + 1) []
  | n + 1, j, c :: cs =>
    let best := ((c :: cs).filter fun x => decide (x.2 = maxKey (c :: cs))).map Prod.fst
    let k := tieDraw (tie j) best
    some k :: selectBins tie n (j + 1) ((c :: cs).filter fun x => decide (x.1 ≠ k))

/-- The candidate bins `1 .. L/2-1` with their keys (43_anticogging.md R343). -/
def candidates (l : Nat) (x : List Cplx) : List (Nat × Int) :=
  (List.range (l / 2 - 1)).map fun k => (k + 1, harmonicKey (x.getD (k + 1) (fZero, fZero)))

/-- The tuple of a chosen bin, or padding (43_anticogging.md R344, R352). -/
def harmonicOf (x : List Cplx) : Option Nat → Harmonic
  | none => { index := 0#32, re := fZero, im := fZero }
  | some k => { index := BitVec.ofNat 32 k, re := (x.getD k (fZero, fZero)).1, im := (x.getD k (fZero, fZero)).2 }

/-- The `N_HARM` tuples of a spectrum (43_anticogging.md R343, R344, R352). -/
def selectHarmonics (tie : Nat → Nat) (l : Nat) (x : List Cplx) : List Harmonic :=
  (selectBins tie Config.nHarm 0 (candidates l x)).map (harmonicOf x)

/-- The harmonic table `ACOG_COMPRESS` computes from the filled scratch of axis `a` (43_anticogging.md R346). With a NaN in the
map the bins are free (log 20). -/
def compressTable (s : State) (a : Axis) : List Harmonic :=
  let l := s.cprOf a
  selectHarmonics (Config.tieRaw s.draws) l (fftFwd l (s.scratchSignal a l))

/-- `ACOG_COMPRESS` (43_anticogging.md R346). The scratch holds what the rule writes; what an in-place transform leaves in it
is never observable (R350, log 3). -/
def execAcogCompress (a : Axis) (s : State) : Host.Outcome State Fault Refusal :=
  let l := s.cprOf a
  if supportedSize l then
    let s1 := s.fillScratch a (mapSignal s a l)
    .next ((s1.setMem (Memory.setHarmonics s1.mem (harmAddr a 0) (compressTable s1 a))).setStatus a .ok)
  else .next (s.setStatus a .eSize)

/-- One harmonic entry stored at the bin it names, if that fits (43_anticogging.md R347, R348). -/
def putHarmonic (l : Nat) (z : List Cplx) (h : Harmonic) : List Cplx :=
  match harmonicBin h.index l with
  | some k => z.set k (h.re, h.im)
  | none => z

/-- The harmonics scattered into a zero-filled scratch, in ascending order of entry, so that a later entry wins
(43_anticogging.md R347, R348, R354). -/
def scatter (l : Nat) (hs : List Harmonic) : List Cplx :=
  hs.foldl (putHarmonic l) (List.replicate l (fZero, fZero))

/-- `HARM[a][0 .. N_HARM-1]`. -/
def harmTable (s : State) (a : Axis) : List Harmonic := (List.range Config.nHarm).map (s.harmEntry a)

/-- What `ACOG_DECOMPRESS` fills the scratch with (43_anticogging.md R347). -/
def harmSignal (s : State) (a : Axis) (l : Nat) : List Cplx := scatter l (harmTable s a)

/-- `MAP[a][n] = fmul(TWO, re(y[n]))` for each `n`, operation `n` (43_anticogging.md R347). -/
def doubleReal (nan : Nat → F32) : Nat → List Cplx → List F32
  | _, [] => []
  | n, y :: ys => fmul (nan n) fTwo y.1 :: doubleReal nan (n + 1) ys

/-- The map `ACOG_DECOMPRESS` computes from the filled scratch of axis `a` (43_anticogging.md R347). -/
def decompressMap (s : State) (a : Axis) : List F32 :=
  let l := s.cprOf a
  doubleReal s.nanDraw 0 (fftInv l (s.scratchSignal a l))

/-- `ACOG_DECOMPRESS` (43_anticogging.md R347); the scratch as for `ACOG_COMPRESS` (R355, log 3). -/
def execAcogDecompress (a : Axis) (s : State) : Host.Outcome State Fault Refusal :=
  let l := s.cprOf a
  if supportedSize l then
    let s1 := s.fillScratch a (harmSignal s a l)
    let s2 := s1.setMem (Memory.setWords s1.mem (mapAddr a 0) (decompressMap s1 a))
    .next ((s2.setAcog a { (s2.axis a).acog with mapValid := true }).setStatus a .ok)
  else .next (s.setStatus a .eSize)

end Sys2Proof.Machine
end

