-- ==== Sys2Proof/Machine/Foc.lean ====
section
/-!
DEFINITION. The current controller (42_foc.md): space-vector modulation (R303 to R306), `FOC_STEP` (R300) and `VOLT_STEP` (R301).
Every intermediate value is local to the step (R290).
-/

namespace Sys2Proof.Machine

/-- The three duty fractions of a modulation vector. -/
structure Duties where
  tA : F32
  tB : F32
  tC : F32
deriving DecidableEq, Repr

/-- `h(x) = fmul(x, HALF)` (42_foc.md R304). -/
def fHalve (nan x : F32) : F32 := fmul nan x fHalf

/-- The sextant of a vector, with `k = fmul(ONE_BY_SQRT3, be)` (42_foc.md R303). -/
def svmSextant (al be k : F32) : Nat :=
  if fge be fZero then
    if fge al fZero then (if fgt k al then 2 else 1) else (if fgt (fneg k) al then 3 else 2)
  else
    if fge al fZero then (if fgt (fneg k) al then 5 else 6) else (if fgt k al then 4 else 5)

/-- `svm(al, be)` (42_foc.md R303 to R306). -/
def svm (nan : Nat → F32) (al be : F32) : Duties :=
  let k := fmul (nan 0) fOneBySqrt3 be
  match svmSextant al be k with
  | 1 =>
    let t1 := fsub (nan 1) al k
    let t2 := fmul (nan 2) fTwoBySqrt3 be
    let tA := fHalve (nan 5) (fsub (nan 4) (fsub (nan 3) fOne t1) t2)
    let tB := fadd (nan 6) tA t1
    let tC := fadd (nan 7) tB t2
    ⟨tA, tB, tC⟩
  | 2 =>
    let t2 := fadd (nan 1) al k
    let t3 := fadd (nan 2) (fneg al) k
    let tB := fHalve (nan 5) (fsub (nan 4) (fsub (nan 3) fOne t2) t3)
    let tA := fadd (nan 6) tB t3
    let tC := fadd (nan 7) tA t2
    ⟨tA, tB, tC⟩
  | 3 =>
    let t3 := fmul (nan 1) fTwoBySqrt3 be
    let t4 := fsub (nan 2) (fneg al) k
    let tB := fHalve (nan 5) (fsub (nan 4) (fsub (nan 3) fOne t3) t4)
    let tC := fadd (nan 6) tB t4
    let tA := fadd (nan 7) tC t3
    ⟨tA, tB, tC⟩
  | 4 =>
    let t4 := fadd (nan 1) (fneg al) k
    let t5 := fneg (fmul (nan 2) fTwoBySqrt3 be)
    let tC := fHalve (nan 5) (fsub (nan 4) (fsub (nan 3) fOne t4) t5)
    let tB := fadd (nan 6) tC t5
    let tA := fadd (nan 7) tB t4
    ⟨tA, tB, tC⟩
  | 5 =>
    let t5 := fsub (nan 1) (fneg al) k
    let t6 := fsub (nan 2) al k
    let tC := fHalve (nan 5) (fsub (nan 4) (fsub (nan 3) fOne t5) t6)
    let tA := fadd (nan 6) tC t5
    let tB := fadd (nan 7) tA t6
    ⟨tA, tB, tC⟩
  | _ =>
    let t6 := fneg (fmul (nan 1) fTwoBySqrt3 be)
    let t1 := fadd (nan 2) al k
    let tA := fHalve (nan 5) (fsub (nan 4) (fsub (nan 3) fOne t6) t1)
    let tC := fadd (nan 6) tA t1
    let tB := fadd (nan 7) tC t6
    ⟨tA, tB, tC⟩

/-- Some duty fraction is a NaN (42_foc.md R309). -/
def Duties.anyNaN (d : Duties) : Bool := isNaN d.tA || isNaN d.tB || isNaN d.tC

/-- The reason a `FOC_STEP` or `VOLT_STEP` is refused, in the order of 42_foc.md R291. -/
def focRefusal (a : Axis) (s : State) : Option Status :=
  if s.enabled a = false then some .eDisabled
  else if !(isFinite s.g.vbus && fgt s.g.vbus fZero) then some .eArg
  else none

/-- `v_to_mod` (42_foc.md R296). -/
def voltsToMod (nan : Nat → F32) (vbus : F32) : F32 := fdiv (nan 1) fOne (fmul (nan 0) fTwoThirds vbus)

/-- What one `FOC_STEP` computes before its commit (42_foc.md R292 to R299, R302, R303). -/
structure FocValues where
  /-- `Id`. -/
  id : F32
  /-- `Iq`. -/
  iq : F32
  /-- `md` after the clip. -/
  md : F32
  /-- `mq` after the clip. -/
  mq : F32
  /-- `vid'`. -/
  vid : F32
  /-- `viq'`. -/
  viq : F32
  /-- `sat'`. -/
  sat : Bool
  /-- `ibus`. -/
  ibus : F32
  /-- The duty fractions of `svm(m_alpha, m_beta)`. -/
  duties : Duties
deriving DecidableEq, Repr

/-- Modulation and integrators after the limit (42_foc.md R297, R298). -/
structure ClipResult where
  md : F32
  mq : F32
  vid : F32
  viq : F32
  sat : Bool
deriving DecidableEq, Repr

/-- The anti-windup clip (42_foc.md R297, R298). -/
def focClip (nan : Nat → F32) (g : GlobalRegs) (f : FocRegs) (ed eq md mq : F32) : ClipResult :=
  let lim := fmul (nan 0) g.modLimitFrac fSqrt3By2
  let mag := fsqrt (nan 4) (fadd (nan 3) (fmul (nan 1) md md) (fmul (nan 2) mq mq))
  if fgt mag lim then
    let sf := fdiv (nan 5) lim mag
    { md := fmul (nan 6) sf md, mq := fmul (nan 7) sf mq,
      vid := fmul (nan 8) f.vIntD fDecay, viq := fmul (nan 9) f.vIntQ fDecay, sat := true }
  else
    let kit := fmul (nan 5) f.kiI g.t
    { md := md, mq := mq,
      vid := fadd (nan 7) f.vIntD (fmul (nan 6) ed kit), viq := fadd (nan 9) f.vIntQ (fmul (nan 8) eq kit),
      sat := false }

/-- The computation of `FOC_STEP` (42_foc.md R300), all reads from the state before the step. -/
def focCompute (nan : Nat → F32) (g : GlobalRegs) (r : AxisRegs) : FocValues :=
  let theta := focPhase r
  let c := cosF theta
  let s := sinF theta
  let ib := r.samp.sampleB
  let ic := r.samp.sampleC
  let iAlpha := fsub (nan 0) (fneg ib) ic
  let iBeta := fmul (nan 2) fOneBySqrt3 (fsub (nan 1) ib ic)
  let id := fadd (nan 5) (fmul (nan 3) c iAlpha) (fmul (nan 4) s iBeta)
  let iq := fsub (nan 8) (fmul (nan 6) c iBeta) (fmul (nan 7) s iAlpha)
  let ed := fsub (nan 9) r.foc.idSet id
  let eq := fsub (nan 10) r.foc.iqSet iq
  let vd := fadd (nan 12) r.foc.vIntD (fmul (nan 11) ed r.foc.kpI)
  let vq := fadd (nan 14) r.foc.vIntQ (fmul (nan 13) eq r.foc.kpI)
  let vToMod := voltsToMod (fun n => nan (15 + n)) g.vbus
  let k := focClip (fun n => nan (20 + n)) g r.foc ed eq (fmul (nan 17) vToMod vd) (fmul (nan 18) vToMod vq)
  let ibus := fadd (nan 32) (fmul (nan 30) k.md id) (fmul (nan 31) k.mq iq)
  let mAlpha := fsub (nan 35) (fmul (nan 33) c k.md) (fmul (nan 34) s k.mq)
  let mBeta := fadd (nan 38) (fmul (nan 36) c k.mq) (fmul (nan 37) s k.md)
  { id := id, iq := iq, md := k.md, mq := k.mq, vid := k.vid, viq := k.viq, sat := k.sat, ibus := ibus,
    duties := svm (fun n => nan (40 + n)) mAlpha mBeta }

/-- The modulation fault (42_foc.md R309): nothing but `ERROR`, `ENABLE` with its effects and `CMD_STATUS` changes. -/
def modulationFault (a : Axis) (s : State) : State := (fault [a] .modulation s).setStatus a .eModulation

/-- The compare count of one duty fraction (42_foc.md R310). -/
def compareCount (nan t : F32) (period : BitVec 16) : BitVec 16 :=
  f2u16Trunc (fmul nan (fmin01 t) (i2f period.toNat))

/-- `commit_timings(a, tA, tB, tC)` (42_foc.md R310). -/
def commitTimings (a : Axis) (d : Duties) (s : State) : State :=
  let p := (s.axis a).pwm
  s.setPwm a { p with cmpA := compareCount (s.nanDraw 60) d.tA p.period,
                      cmpB := compareCount (s.nanDraw 61) d.tB p.period,
                      cmpC := compareCount (s.nanDraw 62) d.tC p.period }

/-- The timing log's part of `log_and_check_deadline` (42_foc.md R311). -/
def logCount (a : Axis) (s : State) : State :=
  let p := (s.axis a).pwm
  let cnt := s.samplePwm a
  s.setPwm a { p with tlog := p.tlog.setIfInBounds p.tlogIdx.toNat cnt,
                      tlogIdx := BitVec.ofNat 4 ((p.tlogIdx.toNat + 1) % Config.logDepth),
                      tlast := cnt }

/-- The deadline is missed: `cnt >= DEADLINE`, unsigned (42_foc.md R311). -/
def deadlineMissed (a : Axis) (s : State) : Bool := decide ((s.axis a).pwm.deadline ≤ s.samplePwm a)

/-- The end of a committed step (42_foc.md R310, R311, R320): timings, log, and then the timing fault with `E_TIMING`, or the
report to `BRK` with `OK`. -/
def finishStep (a : Axis) (d : Duties) (s : State) : State :=
  let s1 := logCount a (commitTimings a d s)
  if deadlineMissed a s then (fault [a] .focTiming s1).setStatus a .eTiming
  else (brkReport a s1).setStatus a .ok

/-- The registers `FOC_STEP` commits (42_foc.md R300). -/
def commitFoc (a : Axis) (v : FocValues) (s : State) : State :=
  s.setFoc a { (s.axis a).foc with vIntD := v.vid, vIntQ := v.viq, modSat := v.sat, idMeas := v.id, iqMeas := v.iq,
                                   modD := v.md, modQ := v.mq, ibus := v.ibus }

/-- `FOC_STEP` (42_foc.md R300). -/
def execFocStep (a : Axis) (s : State) : Host.Outcome State Fault Refusal :=
  match focRefusal a s with
  | some c => .next (s.setStatus a c)
  | none =>
    let v := focCompute s.nanDraw s.g (s.axis a)
    if v.duties.anyNaN then .next (modulationFault a s)
    else .next (finishStep a v.duties (commitFoc a v s))

/-- The duty fractions of `VOLT_STEP` (42_foc.md R301). -/
def voltDuties (nan : Nat → F32) (g : GlobalRegs) (f : FocRegs) : Duties :=
  let vToMod := voltsToMod (fun n => nan (15 + n)) g.vbus
  svm (fun n => nan (40 + n)) (fmul (nan 17) vToMod f.vAlpha) (fmul (nan 18) vToMod f.vBeta)

/-- The register `VOLT_STEP` commits (42_foc.md R301). -/
def commitVolt (a : Axis) (s : State) : State := s.setFoc a { (s.axis a).foc with ibus := fZero }

/-- `VOLT_STEP` (42_foc.md R301). -/
def execVoltStep (a : Axis) (s : State) : Host.Outcome State Fault Refusal :=
  match focRefusal a s with
  | some c => .next (s.setStatus a c)
  | none =>
    let d := voltDuties s.nanDraw s.g (s.axis a).foc
    if d.anyNaN then .next (modulationFault a s)
    else .next (finishStep a d (commitVolt a s))

end Sys2Proof.Machine
end

