-- ==== Sys2Proof/Machine/Pll.lean ====
section
/-!
DEFINITION. The rotor estimator (41_pll.md): `PLL_INIT` (R270), `PLL_UPDATE` (R271), `PLL_SET_BW` (R272). They run whether or not
the axis is enabled (R260).
-/

namespace Sys2Proof.Machine

/-- `delta = i16(cnt - prev)` (41_pll.md R264). -/
def encDelta (cnt prev : BitVec 16) : Int := (cnt - prev).toInt

/-- `i32(ENC_POS + delta)` (41_pll.md R265). -/
def encAdvance (pos : W32) (delta : Int) : W32 := pos + BitVec.ofInt 32 delta

/-- `emod(ENC_POS, CPR)` (41_pll.md R266). -/
def encPosMod (pos cpr : W32) : W32 := BitVec.ofInt 32 (emod pos.toInt cpr.toNat)

/-- `ph_counts` (41_pll.md R266), exact. -/
def phaseCounts (r : PllRegs) (posMod : W32) : Int :=
  emod ((r.polePairs.toNat : Int) * ((posMod.toNat : Int) - r.encOffset.toInt)) r.cpr.toNat

/-- `elec_phase(pos_mod)` (41_pll.md R266). -/
def elecPhaseOf (nan : Nat → F32) (r : PllRegs) (posMod : W32) : F32 :=
  fmul (nan 1) (i2f (phaseCounts r posMod)) (fdiv (nan 0) fTwoPi (i2f r.cpr.toNat))

/-- The phase detector of a form (41_pll.md R268). -/
def detectorOf (form : Config.Detector) (nan : F32) (pos : W32) (posP : F32) : F32 :=
  match form with
  | .direct => fsub nan (i2f pos.toInt) posP
  | .floor => fsub nan (i2f pos.toInt) (ffloor posP)

/-- The estimator's registers after `PLL_INIT` with counter `cnt` (41_pll.md R270). -/
def pllInitRegs (nan : Nat → F32) (cnt : BitVec 16) (r : PllRegs) : PllRegs :=
  let pos : W32 := cnt.setWidth 32
  let posMod := encPosMod pos r.cpr
  { r with encPrev := cnt, encPos := pos, encPosMod := posMod, elecPhase := elecPhaseOf nan r posMod,
           pos := i2f cnt.toNat, vel := fZero }

/-- `PLL_INIT` (41_pll.md R270). -/
def execPllInit (a : Axis) (s : State) : Host.Outcome State Fault Refusal :=
  .next ((s.setPll a (pllInitRegs s.nanDraw (s.sampleEnc a) (s.axis a).pll)).setStatus a .ok)

/-- The estimator's registers after `PLL_UPDATE` with counter `cnt` and period `t` (41_pll.md R267, R271). -/
def pllUpdateRegs (nan : Nat → F32) (t : F32) (cnt : BitVec 16) (r : PllRegs) : PllRegs :=
  let pos := encAdvance r.encPos (encDelta cnt r.encPrev)
  let posMod := encPosMod pos r.cpr
  let posP := fadd (nan 3) r.pos (fmul (nan 2) t r.vel)
  let err := detectorOf Config.pllDetector (nan 4) pos posP
  { r with encPrev := cnt, encPos := pos, encPosMod := posMod, elecPhase := elecPhaseOf nan r posMod,
           pos := fadd (nan 7) posP (fmul (nan 6) (fmul (nan 5) t r.kp) err),
           vel := fadd (nan 10) r.vel (fmul (nan 9) (fmul (nan 8) t r.ki) err) }

/-- `PLL_UPDATE` (41_pll.md R271). -/
def execPllUpdate (a : Axis) (s : State) : Host.Outcome State Fault Refusal :=
  .next ((s.setPll a (pllUpdateRegs s.nanDraw s.g.t (s.sampleEnc a) (s.axis a).pll)).setStatus a .ok)

/-- `PLL_SET_BW` (41_pll.md R272). -/
def execPllSetBw (a : Axis) (s : State) : Host.Outcome State Fault Refusal :=
  let r := (s.axis a).pll
  let kp := fmul (s.nanDraw 0) fTwo r.bw
  let ki := fmul (s.nanDraw 1) r.bw r.bw
  if !(isFinite r.bw && fgt r.bw fZero) then .next (s.setStatus a .eArg)
  else if !(isFinite kp && isFinite ki) then .next (s.setStatus a .eArg)
  else if !pllStable (s.nanDraw 2) s.g.t kp then .next (s.setStatus a .eUnstable)
  else .next ((s.setPll a { r with kp := kp, ki := ki }).setStatus a .ok)

end Sys2Proof.Machine
end

