-- ==== Sys2Proof/Machine/Seq.lean ====
section
/-!
DEFINITION. The current sampler and sequencer (40_sequencer.md): `ADC_EOC` (R224), `ADC_EOC_FOREIGN` (R225).
-/

namespace Sys2Proof.Machine

/-- The sequencer's registers replaced. -/
def State.setSeq (s : State) (r : SeqRegs) : State := { s with seq := r }

/-- Why an event matches no expected state (10_state.md R56). -/
inductive SeqReason where
  | foreign
  | trigger
  | channel
  | duplicate
deriving DecidableEq, Repr

/-- `REASON` of `SEQ_FAULT_INFO` (10_state.md R56). -/
def SeqReason.code : SeqReason → BitVec 4
  | .foreign => 1#4
  | .trigger => 2#4
  | .channel => 3#4
  | .duplicate => 4#4

/-- The word `SEQ_FAULT_INFO` takes (10_state.md R56, 40_sequencer.md R235):
`VALID || 0000000 || REASON || DONE1 || DONE0 || STATE || EVT`. -/
def seqFaultWord (r : SeqRegs) (e : BitVec 16) (reason : SeqReason) : W32 :=
  1#1 ++ (0#7 ++ (reason.code ++ (BitVec.ofBool r.done.unit1 ++ (BitVec.ofBool r.done.unit0 ++ (r.state ++ e)))))

/-- `seq_fault(e, reason)` (40_sequencer.md R235). -/
def seqFault (e : BitVec 16) (reason : SeqReason) (s : State) : State :=
  fault [.ax0, .ax1] .adcSeq
    (s.setSeq { s.seq with faultInfo := seqFaultWord s.seq e reason, run := false })

/-- `gain_valid(g)` (40_sequencer.md R227). -/
def gainValid (g : F32) : Bool := isFinite g && fgt g fZero

/-- `gain_invalid(ax)` (40_sequencer.md R228). -/
def gainInvalid (ax : Axis) (s : State) : State :=
  let s1 := fault [ax] .gainInvalid s
  s1.setSeq { s1.seq with bad := true }

/-- `raw_to_current(raw, gain)` (40_sequencer.md R226). -/
def rawToCurrent (nan : F32) (raw : BitVec 12) (gain : F32) : F32 :=
  fmul nan (i2f ((adcRaw raw : Int) - 2 ^ (Config.adcBits - 1))) gain

/-- One step of the DC-offset filter (40_sequencer.md R229). -/
def dcFilter (nan : Nat → F32) (t tau dc cur : F32) : F32 :=
  fadd (nan 4) dc (fmul (nan 3) (fdiv (nan 1) t tau) (fsub (nan 2) cur dc))

/-- The sampler's registers after a valid conversion: the offset filter in a `DC` state (40_sequencer.md R229), the staged
current in a `CUR` state (R230). -/
def takeConversion (nan : Nat → F32) (g : GlobalRegs) (kind : SeqKind) (u : AdcUnit) (cur : F32) (r : SampRegs) :
    SampRegs :=
  match kind, u with
  | .dc, .unit0 => { r with dcB := dcFilter nan g.t g.dcTau r.dcB cur }
  | .dc, .unit1 => { r with dcC := dcFilter nan g.t g.dcTau r.dcC cur }
  | .cur, .unit0 => { r with stageB := fsub (nan 5) cur r.dcB }
  | .cur, .unit1 => { r with stageC := fsub (nan 5) cur r.dcC }

/-- The conversion of an expected event for axis `ax` (40_sequencer.md R224): gain check, then filter or staging. -/
def convert (ax : Axis) (u : AdcUnit) (raw : BitVec 12) (s : State) : State :=
  let r := (s.axis ax).samp
  if gainValid r.currGain then
    s.setSamp ax
      (takeConversion s.nanDraw s.g (seqKind s.seq.state) u (rawToCurrent (s.nanDraw 0) raw r.currGain) r)
  else gainInvalid ax s

/-- `DONE[u] <- 1` and `TRIG_SEL[u] <- axis((s + 1) mod 4)` (40_sequencer.md R224, R231). -/
def markDone (u : AdcUnit) (s : State) : State :=
  s.setSeq { s.seq with done := s.seq.done.set u true,
                        trigSel := s.seq.trigSel.set u (seqAxis (s.seq.state + 1#2)) }

/-- The snapshot and the signal of a complete current state (40_sequencer.md R232). -/
def publish (r : SampRegs) : SampRegs := raiseReady { r with sampleB := r.stageB, sampleC := r.stageC }

/-- `advance(s)` (40_sequencer.md R233). -/
def advance (r : SeqRegs) : SeqRegs := { r with state := r.state + 1#2, done := ⟨false, false⟩, bad := false }

/-- `complete_state(s)` (40_sequencer.md R232, R233). -/
def completeState (s : State) : State :=
  let ax := seqAxis s.seq.state
  let s1 := if seqKind s.seq.state = .cur ∧ s.seq.bad = false then s.setSamp ax (publish (s.axis ax).samp) else s
  s1.setSeq (advance s1.seq)

/-- `complete_state` when both units are done (40_sequencer.md R224). -/
def completeIfDone (s : State) : State :=
  if s.seq.done.unit0 && s.seq.done.unit1 then completeState s else s

/-- `ADC_EOC` (40_sequencer.md R224), the checks in the order of R224. -/
def execAdcEoc (chan trig : Axis) (unit : BitVec 2) (raw : BitVec 12) (s : State) :
    Host.Outcome State Fault Refusal :=
  let e := evtWord chan trig unit raw
  let u := adcUnit unit
  let ax := seqAxis s.seq.state
  if s.seq.run = false then .next s
  else if trig ≠ ax then .next (seqFault e .trigger s)
  else if chan ≠ ax then .next (seqFault e .channel s)
  else if s.seq.done.get u then .next (seqFault e .duplicate s)
  else .next (completeIfDone (markDone u (convert ax u raw s)))

/-- `ADC_EOC_FOREIGN` (40_sequencer.md R225). -/
def execAdcEocForeign (chan trig : Axis) (unit : BitVec 2) (raw : BitVec 12) (s : State) :
    Host.Outcome State Fault Refusal :=
  if s.seq.run = false then .next s
  else .next (seqFault (evtWord chan trig unit raw) .foreign s)

end Sys2Proof.Machine
end

