-- ==== Sys2Proof/Machine/Dispatch.lean ====
section
/-!
DEFINITION. One arm per instruction, each one call of its meaning.
-/

namespace Sys2Proof.Machine

/-- What an instruction does. -/
def exec (i : Instr) (s : State) : Host.Outcome State Fault Refusal :=
  match i with
  | .nop a => Sys2Proof.Machine.execNop a s
  | .pllInit a => Sys2Proof.Machine.execPllInit a s
  | .pllUpdate a => Sys2Proof.Machine.execPllUpdate a s
  | .pllSetBw a => Sys2Proof.Machine.execPllSetBw a s
  | .focStep a => Sys2Proof.Machine.execFocStep a s
  | .voltStep a => Sys2Proof.Machine.execVoltStep a s
  | .acogLookup a => Sys2Proof.Machine.execAcogLookup a s
  | .acogCompress a => Sys2Proof.Machine.execAcogCompress a s
  | .acogDecompress a => Sys2Proof.Machine.execAcogDecompress a s
  | .gnop => Sys2Proof.Machine.execGnop s
  | .seqStart => Sys2Proof.Machine.execSeqStart s
  | .adcEoc chan trig unit raw => Sys2Proof.Machine.execAdcEoc chan trig unit raw s
  | .adcEocForeign chan trig unit raw => Sys2Proof.Machine.execAdcEocForeign chan trig unit raw s

end Sys2Proof.Machine
end

