-- ==== Sys2Proof/Machine/Deliver.lean ====
section
/-!
DEFINITION. One delivery of the environment: a bus access, an event, a change of an input port, a reset (20_memory.md R148, R150,
10_state.md R107, 70_reset_and_hazards.md R450; logs 8 to 11 and 14).
-/

namespace Sys2Proof.Machine

/-- The response of a bus access recorded (log 10). -/
def State.setBus (s : State) (r : BusResponse) : State := { s with bus := r }

/-- The response of an accepted write: no error, and no data. -/
def busOk : BusResponse := { error := false, rdata := none }

/-- The response of a refused write (20_memory.md R140): the error, and no data. -/
def busRefused : BusResponse := { error := true, rdata := none }

/-- `reject(E_ILLEGAL)` on the port a word was written to (30_encoding.md R188). -/
def rejectIllegal (w : Wire) (s : State) : State :=
  match w with
  | .cmd a _ => s.setStatus a .eIllegal
  | .gcmd _ => s.setGStatus .eIllegal
  | .evt _ => s

/-- A word that arrives is decoded and run; an illegal command word is refused (30_encoding.md R188, R192). -/
def runWire (w : Wire) (s : State) : Host.Outcome State Fault Refusal :=
  match decode w with
  | .ok i => exec i s
  | .error _ => .next (rejectIllegal w s)

/-- An accepted write to a location (10_state.md R51, 20_memory.md R144): to a command port it is the command. -/
def writeLoc (v : W32) (s : State) : Loc → Host.Outcome State Fault Refusal
  | .gcmd => runWire (.gcmd v) s
  | .cmd a => runWire (.cmd a v) s
  | .global r => .next (writeGlobal v s r)
  | .axis a r => .next (writeAxis a v s r)
  | .storage n => .next (s.setMem (Memory.setWord s.mem n v))
  | .hole | .unmapped => .next s

/-- A bus write: refused with an error and no other effect, or accepted (20_memory.md R140, R142). -/
def busWrite (addr : BitVec 20) (width : Nat) (v : W32) (s : State) : Host.Outcome State Fault Refusal :=
  if busAccepts addr width then writeLoc v (s.setBus busOk) (locate addr) else .next (s.setBus busRefused)

/-- The state after a reset: the environment's own fields stay, the free reset contents are those of the next reset
(70_reset_and_hazards.md R450, R453; log 14). -/
def afterReset (s : State) : State :=
  { State.reset with epoch := s.epoch + 1, draws := s.draws, encCnt := s.encCnt, pwmCnt := s.pwmCnt,
                     pending := s.pending }

/-- What one delivery does. -/
def deliver (d : Delivery) (s : State) : Host.Outcome State Fault Refusal :=
  match d with
  | .read addr width => .next (s.setBus (busRead addr width s))
  | .write addr width v => busWrite addr width v s
  | .event e => runWire (.evt e) s
  | .setEncCnt a v => .next { s with encCnt := s.encCnt.set a v }
  | .setPwmCnt a v => .next { s with pwmCnt := s.pwmCnt.set a v }
  | .reset => .next (afterReset s)

/-- The state with its first delivery taken: `ds` is what stays pending (log 9). -/
def State.take (s : State) (ds : List Delivery) : State := { s with pending := ds, draws := s.draws + 1 }

/-- The next delivery, if any, taken and done; with none pending the block does nothing (log 9). -/
def deliverNext (s : State) : Host.Outcome State Fault Refusal :=
  match s.pending with
  | [] => .next s
  | d :: ds => deliver d (s.take ds)

/-- A bare table word as the delivery that carries it to its port (log 12). -/
def tableDelivery (nbits w : Nat) : Delivery :=
  match tableWire nbits w with
  | .cmd .ax0 v => .write 0x00100#20 32 v
  | .cmd .ax1 v => .write 0x00200#20 32 v
  | .gcmd v => .write 0x00004#20 32 v
  | .evt e => .event e

end Sys2Proof.Machine
end

