-- ==== Sys2Proof/Machine/Step.lean ====
section
/-!
DEFINITION. One step of the machine: the environment's next delivery (20_memory.md R150).
-/

namespace Sys2Proof.Machine

/-- One step. -/
def step (s : State) : Host.Outcome State Fault Refusal := deliverNext s

/-- The state with a table word as the very next delivery (log 12). -/
def State.withFetchWord (s : State) (nbits w : Nat) : State :=
  { s with pending := tableDelivery nbits w :: s.pending }

end Sys2Proof.Machine
end

