-- ==== Sys2Proof/Machine/Ports.lean ====
section
/-!
DEFINITION. The output ports, each a function of the state (10_state.md R106, 60_exceptions.md R410).
-/

namespace Sys2Proof.Machine

/-- `pwm_cmp[a]`: the three compare counts (10_state.md R106). -/
def pwmCmpPort (s : State) (a : Axis) : BitVec 16 × BitVec 16 × BitVec 16 :=
  ((s.axis a).pwm.cmpA, (s.axis a).pwm.cmpB, (s.axis a).pwm.cmpC)

/-- `pwm_en[a]` (10_state.md R106). -/
def pwmEnPort (s : State) (a : Axis) : Bool := s.enabled a

/-- `adc_trig_sel[u]` (10_state.md R106). -/
def adcTrigSelPort (s : State) (u : AdcUnit) : Axis := s.seq.trigSel.get u

/-- `brake_duty` (10_state.md R106). -/
def brakeDutyPort (s : State) : F32 := s.brk.duty

/-- `irq_ready[a]` (10_state.md R106, 60_exceptions.md R410). -/
def irqReadyPort (s : State) (a : Axis) : Bool := (s.axis a).samp.ready && s.g.irqEn.getLsbD a.toNat

/-- `irq_fault` (10_state.md R106, 60_exceptions.md R410). -/
def irqFaultPort (s : State) : Bool := faultFlag s && s.g.irqEn.getLsbD 2

end Sys2Proof.Machine
end

