-- ==== Sys2Proof/Safety.lean ====
section
/-!
DEFINITION. The terms claims are stated in: the invariant of the block, what a step leaves alone, and which delivery is a given
access.
-/

namespace Sys2Proof.Machine

/-- The registers of an axis are legal: `CPR` and `POLE_PAIRS` in their ranges (10_state.md R78, R79), `ENC_POS_MOD` below the
largest `CPR` (R83), and no armed axis has a fault of the block recorded
(44_system.md R383, 60_exceptions.md R405). -/
structure AxisRegs.Legal (r : AxisRegs) : Prop where
  cpr_pos : 1 ≤ r.pll.cpr.toNat
  cpr_le : r.pll.cpr.toNat ≤ 65536
  polePairs_pos : 1 ≤ r.pll.polePairs.toNat
  polePairs_le : r.pll.polePairs.toNat ≤ 65535
  posMod_lt : r.pll.encPosMod.toNat < 65536
  armed_clean : r.ctl.enable = true → r.ctl.error &&& 0x00F#10 = 0#10

/-- The configuration registers hold legal values (10_state.md R62 to R66). -/
structure GlobalRegs.Legal (g : GlobalRegs) : Prop where
  t_legal : g.t = fZero ∨ legalPositive g.t = true
  dcTau_legal : legalPositive g.dcTau = true
  modLimitFrac_legal : legalFraction g.modLimitFrac = true
  brakeR_legal : legalNonneg g.brakeR = true
  brakeDutyMax_legal : legalFraction g.brakeDutyMax = true

/-- The axis a unit is set up for: that of the next state once it is done in this one (40_sequencer.md R231, R233). -/
def expectedTrig (r : SeqRegs) (u : AdcUnit) : Axis :=
  if r.done.get u then seqAxis (r.state + 1#2) else seqAxis r.state

/-- The sequencer between steps: a state with both units done has been completed (40_sequencer.md R232), each unit is set up
for its next conversion (R231), and the reserved bits of the fault record are 0 (10_state.md R56). -/
structure SeqRegs.Consistent (r : SeqRegs) : Prop where
  not_both_done : (r.done.unit0 && r.done.unit1) = false
  trig : ∀ u, r.trigSel.get u = expectedTrig r u
  faultInfo_res : r.faultInfo.extractLsb' 24 7 = 0#7
  faultInfo_valid : r.faultInfo = 0#32 ∨ r.faultInfo.getLsbD 31 = true

/-- The brake reports between steps: only an armed axis has one (44_system.md R384), and while some axis is armed not every
armed axis has one, since the last report aggregates (42_foc.md R320). -/
structure State.BrkConsistent (s : State) : Prop where
  reported_enabled : ∀ a, s.brk.reported.get a = true → s.enabled a = true
  not_all_reported : (∃ a, s.enabled a = true) → ∃ a, s.enabled a = true ∧ s.brk.reported.get a = false

/-- A byte address of the map windows or of the fields of the harmonic windows (20_memory.md R134, R135). -/
def storageAddr (n : Nat) : Bool :=
  (decide (0x400 ≤ n) && decide (n < 0x800) && decide ((n - 0x400) % 0x200 / 16 < Config.nHarm) &&
      decide (n % 16 < 12)) ||
    (decide (0x10000 ≤ n) && decide (n < 0x20000) && decide ((n - 0x10000) % 0x8000 / 4 < Config.mapDepth))

/-- The invariant of the block. -/
structure State.Inv (s : State) : Prop where
  global : s.g.Legal
  axes : ∀ a, (s.axis a).Legal
  seq : s.seq.Consistent
  brk : s.BrkConsistent
  mem_wf : Memory.wf s.mem = true
  mem_addr : ∀ c ∈ s.mem, storageAddr c.1 = true

/-- A phase of 41_pll.md R274: a value from `+0.0`, never `-0.0`, to below `TWO_PI_F`, and below the real 2π. -/
structure PhaseInRange (x : F32) : Prop where
  not_negative : fSign x = false
  below : flt x fTwoPi = true
  below_real : (fUnits x : ℝ) < 2 * Real.pi * 2 ^ 149

/-- The fields of the model that stand for the environment, and the bus response, are unchanged. -/
structure State.SameInputs (s t : State) : Prop where
  epoch : t.epoch = s.epoch
  draws : t.draws = s.draws
  encCnt : t.encCnt = s.encCnt
  pwmCnt : t.pwmCnt = s.pwmCnt
  bus : t.bus = s.bus
  pending : t.pending = s.pending

/-- Every byte of the storage reads as before. -/
def State.SameBytes (s t : State) : Prop := ∀ n, t.byteAt n = s.byteAt n

/-- Nothing but the registers of axis `a`, `BRK` and the storage has changed. -/
structure State.OnlyAxis (a : Axis) (s t : State) : Prop where
  inputs : s.SameInputs t
  g : t.g = s.g
  seq : t.seq = s.seq
  other : t.axis a.other = s.axis a.other

/-- Nothing but `CMD_STATUS` of axis `a` has changed, and it holds `c` (00_scope.md R14, `reject`). -/
structure State.OnlyStatus (a : Axis) (c : Status) (s t : State) : Prop where
  only : State.OnlyAxis a s t
  brk : t.brk = s.brk
  bytes : s.SameBytes t
  own : t.axis a = { s.axis a with ctl := { (s.axis a).ctl with cmdStatus := c } }

/-- Nothing but `G.GCMD_STATUS` has changed, and it holds `c`. -/
structure State.OnlyGStatus (c : Status) (s t : State) : Prop where
  inputs : s.SameInputs t
  seq : t.seq = s.seq
  brk : t.brk = s.brk
  axes : ∀ a, t.axis a = s.axis a
  bytes : s.SameBytes t
  g : t.g = { s.g with gcmdStatus := c }

/-- The address of register offset `off` of axis `a` (20_memory.md R133). -/
def axisAddr (a : Axis) (off : Nat) : Nat := 0x100 + 0x100 * a.toNat + off

/-- A delivery is an aligned 32-bit write of `v` to the address `addr`. -/
def isWrite (d : Delivery) (addr : Nat) (v : W32) : Prop := ∃ k, d = .write k 32 v ∧ k.toNat = addr

/-- The state a delivery acts on: taken from the queue, with the response of an accepted access. -/
def State.accept (s : State) (ds : List Delivery) : State := (s.take ds).setBus busOk

/-- `BRK` after the armed axis `a` of `s` was disarmed in the step to `t` (44_system.md R384, 42_foc.md R320): its report is gone, and
then no axis left armed gives duty `+0.0`, the other axis armed and reported gives the aggregate, else the duty stays. -/
def brkAfterDisarm (a : Axis) (s t : State) : BrkRegs :=
  if (s.axis a.other).ctl.enable = false then { duty := 0#32, reported := ⟨false, false⟩ }
  else if s.brk.reported.get a.other = true then { duty := brakeDutyOf t, reported := ⟨false, false⟩ }
  else { duty := s.brk.duty, reported := ⟨false, false⟩ }

/-- The axis a command acts on. -/
def commandAxis : Instr → Option Axis
  | .nop a | .pllInit a | .pllUpdate a | .pllSetBw a | .focStep a | .voltStep a => some a
  | .acogLookup a | .acogCompress a | .acogDecompress a => some a
  | .gnop | .seqStart => none
  | .adcEoc _ _ _ _ | .adcEocForeign _ _ _ _ => none

/-- A byte address of the windows of axis `a` (20_memory.md R131). -/
def ownByte (a : Axis) (n : Nat) : Prop :=
  (0x400 + 0x200 * a.toNat ≤ n ∧ n < 0x600 + 0x200 * a.toNat) ∨
    (0x10000 + 0x8000 * a.toNat ≤ n ∧ n < 0x18000 + 0x8000 * a.toNat)

/-- Two states agree on all that a command of axis `a` may read (60_exceptions.md R416): the axis's own registers, windows and
inputs, the configuration, `BRK`, and of the other axis only what `BRK` counts, its `ENABLE` and its `IBUS`. -/
structure State.AgreeFor (a : Axis) (s s' : State) : Prop where
  g : s'.g = s.g
  brk : s'.brk = s.brk
  own : s'.axis a = s.axis a
  otherEnable : s'.enabled a.other = s.enabled a.other
  otherIbus : (s'.axis a.other).foc.ibus = (s.axis a.other).foc.ibus
  bytes : ∀ n, ownByte a n → s'.byteAt n = s.byteAt n
  draws : s'.draws = s.draws
  encCnt : s'.encCnt.get a = s.encCnt.get a
  pwmCnt : s'.pwmCnt.get a = s.pwmCnt.get a

/-- One `PLL_UPDATE` of axis `a` for each counter value, the port set before each. -/
def afterUpdates (a : Axis) : List (BitVec 16) → State → Host.Outcome State Fault Refusal
  | [], s => .next s
  | c :: cs, s =>
    match exec (.pllUpdate a) { s with encCnt := s.encCnt.set a c } with
    | .next t => afterUpdates a cs t
    | .fault f => .fault f
    | .refused r => .refused r

/-- The counter values of a motion: from `c`, one value after each `d` (41_pll.md R273: `c_k = u16(c_(k-1) + d_k)`). -/
def countsOf (c : BitVec 16) : List Int → List (BitVec 16)
  | [] => []
  | d :: ds => (c + BitVec.ofInt 16 d) :: countsOf (c + BitVec.ofInt 16 d) ds

/-- The states an event sequence goes through, one after each event. -/
def statesAfter : List Instr → State → List State
  | [], _ => []
  | i :: is, s =>
    match exec i s with
    | .next t => t :: statesAfter is t
    | .fault _ => []
    | .refused _ => []

/-- The two expected events of a sequencer state of axis `a`, unit 0 first or unit 1 first (40_sequencer.md R239). -/
def expectedPair (a : Axis) (unit0First : Bool) (raw0 raw1 : BitVec 12) : List Instr :=
  if unit0First then [.adcEoc a a 0#2 raw0, .adcEoc a a 1#2 raw1] else [.adcEoc a a 1#2 raw1, .adcEoc a a 0#2 raw0]

/-- The value of a magnitude field in units of `2^-149`. -/
def magValue (m : Nat) : Nat := if m / 0x800000 = 0 then m else (0x800000 + m % 0x800000) * 2 ^ (m / 0x800000 - 1)

/-- The magnitude field `m` is the correct rounding of `n / d` units under roundTiesToEven (00_scope.md R17): no finite
value is nearer, an equally near one is odd; infinity exactly when `n / d` is at least half a unit in the last place above
the largest finite value. -/
structure NearestEven (n d m : Nat) : Prop where
  le_inf : m ≤ 0x7F800000
  overflow : m = 0x7F800000 ↔ d * ((2 ^ 25 - 1) * 2 ^ 252) ≤ n
  nearest : m < 0x7F800000 → ∀ k, k < 0x7F800000 →
    |((magValue m * d : Nat) : Int) - n| ≤ |((magValue k * d : Nat) : Int) - n|
  ties : m < 0x7F800000 → ∀ k, k < 0x7F800000 → k ≠ m →
    |((magValue m * d : Nat) : Int) - n| = |((magValue k * d : Nat) : Int) - n| → m % 2 = 0

end Sys2Proof.Machine
end

