-- ==== Sys2Proof/Certificates/Slice0/Obligations.lean ====
section
/-!
DEFINITION. The statements for the provers.
-/

open Sys2Proof Sys2Proof.Machine

/-! ### Encoding -/

/-- 30_encoding.md R186, R187, R189, R192: the decoder gives back every well-formed instruction from its word. -/
def Obligations.DecodeOfEncodeIsTheInstruction : Prop :=
  ∀ i : Instr, i.wellFormed = true → decode (encode i) = .ok i

/-- 30_encoding.md R192: a word that decodes has one meaning, whose word it is. -/
def Obligations.DecodedInstructionEncodesToItsWord : Prop :=
  ∀ (w : Wire) (i : Instr), decode w = .ok i → i.wellFormed = true ∧ encode i = w

/-- 30_encoding.md R192: the decoder accepts exactly the rows of R186 on an axis port and of R187 on the global port, and
every event word. -/
def Obligations.DecoderAcceptsExactlyTheOpcodeMap : Prop :=
  (∀ (a : Axis) (w : W32), (∃ i, decode (.cmd a w) = .ok i) ↔
    w.toNat ∈ [0x00, 0x01, 0x02, 0x03, 0x10, 0x11, 0x20, 0x21, 0x22]) ∧
  (∀ w : W32, (∃ i, decode (.gcmd w) = .ok i) ↔ w.toNat ∈ [0x00, 0x01]) ∧
  (∀ e : BitVec 16, decode (.evt e) = .ok (if e.getLsbD 13
    then .adcEocForeign (Axis.ofBool (e.getLsbD 15)) (Axis.ofBool (e.getLsbD 14)) (e.extractLsb' 12 2) (e.extractLsb' 0 12)
    else .adcEoc (Axis.ofBool (e.getLsbD 15)) (Axis.ofBool (e.getLsbD 14)) (e.extractLsb' 12 2) (e.extractLsb' 0 12)))

/-- 30_encoding.md R186, R187, R189: one word of each format written out, with its instruction. -/
def Obligations.SampleWordsDecodeAsTheTablesSay : Prop :=
  decode (.cmd .ax0 0x00000010#32) = .ok (.focStep .ax0) ∧
  decode (.cmd .ax1 0x00000022#32) = .ok (.acogDecompress .ax1) ∧
  decode (.gcmd 0x00000001#32) = .ok .seqStart ∧
  decode (.evt 0x0864#16) = .ok (.adcEoc .ax0 .ax0 0#2 2148#12) ∧
  decode (.evt 0xA001#16) = .ok (.adcEocForeign .ax1 .ax0 2#2 1#12)

/-- 30_encoding.md R188: a command word with `RSV != 0` or a reserved `OPC` changes nothing but the status of its port, which
takes `E_ILLEGAL`. -/
def Obligations.IllegalCommandWordOnlySetsTheStatus : Prop :=
  ∀ (s : State) (k : BitVec 20) (w : W32) (ds : List Delivery), s.pending = .write k 32 w :: ds →
    (∀ a : Axis, k.toNat = axisAddr a 0 →
      w.toNat ∉ [0x00, 0x01, 0x02, 0x03, 0x10, 0x11, 0x20, 0x21, 0x22] →
      ∃ t, step s = .next t ∧ State.OnlyStatus a .eIllegal (s.accept ds) t ∧ readAxis t a .cmdStatus = 1#32) ∧
    (k.toNat = 0x00004 → w.toNat ∉ [0x00, 0x01] →
      ∃ t, step s = .next t ∧ State.OnlyGStatus .eIllegal (s.accept ds) t ∧ readGlobal t .gcmdStatus = 1#32)

/-! ### Steps, the bus and the storage -/

/-- 20_memory.md R150, 30_encoding.md R180: a word written to a command port, or delivered on `adc_evt`, that decodes to `i` makes
the step `exec i`, on the state with that delivery taken and, for a bus write, accepted. -/
def Obligations.StepRunsTheDecodedInstruction : Prop :=
  ∀ (s : State) (ds : List Delivery) (i : Instr),
    (∀ (a : Axis) (k : BitVec 20) (w : W32), s.pending = .write k 32 w :: ds → k.toNat = axisAddr a 0 →
      decode (.cmd a w) = .ok i → step s = exec i (s.accept ds)) ∧
    (∀ (k : BitVec 20) (w : W32), s.pending = .write k 32 w :: ds → k.toNat = 0x00004 →
      decode (.gcmd w) = .ok i → step s = exec i (s.accept ds)) ∧
    (∀ e : BitVec 16, s.pending = .event e :: ds → decode (.evt e) = .ok i → step s = exec i (s.take ds))

/-- 60_exceptions.md R400: no step of the block stops. -/
def Obligations.EveryStepAnswersANextState : Prop := ∀ s : State, ∃ t, step s = .next t

/-- 20_memory.md R140, R147: an access of another width, misaligned or unmapped answers the error response, a read with data 0,
and changes nothing else; every other access answers no error. That the response stands in the state, with no data for a
write, is the model's choice (log 10). -/
def Obligations.RefusedAccessOnlyAnswersAnError : Prop :=
  ∀ (s : State) (k : BitVec 20) (width : Nat) (v : W32) (d : Delivery) (ds : List Delivery),
    s.pending = d :: ds → d = .read k width ∨ d = .write k width v →
    ((width ≠ 32 ∨ k.toNat % 4 ≠ 0 ∨ (0x300 ≤ k.toNat ∧ k.toNat ≤ 0x3FF) ∨
        (0x800 ≤ k.toNat ∧ k.toNat ≤ 0xFFFF) ∨ 0x20000 ≤ k.toNat) →
      (d = .read k width → step s = .next ((s.take ds).setBus { error := true, rdata := some 0#32 })) ∧
      (d = .write k width v → step s = .next ((s.take ds).setBus { error := true, rdata := none }))) ∧
    (¬(width ≠ 32 ∨ k.toNat % 4 ≠ 0 ∨ (0x300 ≤ k.toNat ∧ k.toNat ≤ 0x3FF) ∨
        (0x800 ≤ k.toNat ∧ k.toNat ≤ 0xFFFF) ∨ 0x20000 ≤ k.toNat) →
      ∃ t, step s = .next t ∧ t.bus.error = false)

/-- 20_memory.md R143: an accepted read changes nothing of the block, returns the location's current value (0 for the
write-only locations), and read twice with no step between returns the same value. -/
def Obligations.ReadsHaveNoSideEffects : Prop :=
  ∀ (s : State) (k : BitVec 20) (ds : List Delivery), busAccepts k 32 = true →
    s.pending = .read k 32 :: .read k 32 :: ds →
    ∃ t u, step s = .next t ∧ step t = .next u ∧
      t = (s.take (.read k 32 :: ds)).setBus { error := false, rdata := some (readLoc s (locate k)) } ∧
      u = (t.take ds).setBus t.bus ∧
      (k.toNat = 0x00004 ∨ (∃ a, k.toNat = axisAddr a 0x00 ∨ k.toNat = axisAddr a 0x14) → t.bus.rdata = some 0#32)

/-- 20_memory.md R134, R137: a map word reads back as written, whatever `CPR` and `MAP_VALID` are, and the write changes no other
byte of the storage and no register. -/
def Obligations.MapWordReadsBackAsWritten : Prop :=
  ∀ (s : State) (a : Axis) (i : Nat) (v : W32) (k : BitVec 20) (ds : List Delivery), i < 8192 →
    k.toNat = 0x10000 + 0x8000 * a.toNat + 4 * i → s.pending = .write k 32 v :: .read k 32 :: ds →
    ∃ t u, step s = .next t ∧ step t = .next u ∧ u.bus = { error := false, rdata := some v } ∧ t.mapEntry a i = v ∧
      (∀ n, ¬(k.toNat ≤ n ∧ n < k.toNat + 4) → t.byteAt n = s.byteAt n) ∧
      t.ax = s.ax ∧ t.g = s.g ∧ t.seq = s.seq ∧ t.brk = s.brk

/-- 20_memory.md R135: the three fields of the entries below `N_HARM` read back as written; the fourth word of an entry and
the entries from `N_HARM` on read 0 and ignore writes. -/
def Obligations.HarmonicWindowReadsBackItsFields : Prop :=
  ∀ (s : State) (a : Axis) (j f : Nat) (v : W32) (k : BitVec 20) (ds : List Delivery), j < 32 → f < 4 →
    k.toNat = 0x00400 + 0x200 * a.toNat + 16 * j + 4 * f → s.pending = .write k 32 v :: .read k 32 :: ds →
    ∃ t u, step s = .next t ∧ step t = .next u ∧ t.ax = s.ax ∧ t.g = s.g ∧ t.seq = s.seq ∧ t.brk = s.brk ∧
      if j < 8 ∧ f < 3 then
        u.bus = { error := false, rdata := some v } ∧
          ∀ n, ¬(k.toNat ≤ n ∧ n < k.toNat + 4) → t.byteAt n = s.byteAt n
      else u.bus = { error := false, rdata := some 0#32 } ∧ ∀ n, t.byteAt n = s.byteAt n

/-- 20_memory.md R136: the holes of the register blocks read 0 and ignore writes, with no error. -/
def Obligations.HolesReadZeroAndIgnoreWrites : Prop :=
  ∀ (s : State) (k : BitVec 20) (v : W32) (ds : List Delivery), k.toNat % 4 = 0 →
    (0x44 ≤ k.toNat ∧ k.toNat ≤ 0xFC) ∨ (∃ a, k.toNat = axisAddr a 0xBC) →
    s.pending = .write k 32 v :: .read k 32 :: ds →
    step s = .next (s.accept (.read k 32 :: ds)) ∧
      step (s.accept (.read k 32 :: ds)) =
        .next (((s.accept (.read k 32 :: ds)).take ds).setBus { error := false, rdata := some 0#32 })

/-- 10_state.md R51 (`RO`, `RW`, `res`), R59, R61, R75, R76, R80, R85 to R87, R89, R90, R92, R93, R97 to R100, R104: a host write to a
read-only register is accepted and changes nothing; to each register whose fields are all `RW` it is stored in that register's
field, reads back without the reserved bits, and changes nothing else. -/
def Obligations.HostWritesActByTheRegisterType : Prop :=
  (∀ (s : State) (k : BitVec 20) (v : W32) (ds : List Delivery), s.pending = .write k 32 v :: ds →
    k.toNat ∈ [0x00, 0x08, 0x0C, 0x10, 0x14, 0x1C, 0x38, 0x3C, 0x40] ∨
      (∃ a off, k.toNat = axisAddr a off ∧
        (off ∈ [0x04, 0x24, 0x28, 0x38, 0x3C, 0x40, 0x44, 0x78, 0x7C, 0x80, 0x84, 0x88, 0x9C, 0xA0, 0xA4, 0xA8, 0xAC,
          0xB8] ∨ (0xC0 ≤ off ∧ off ≤ 0xFC ∧ off % 4 = 0))) →
    step s = .next (s.accept ds)) ∧
  ∀ (s : State) (k : BitVec 20) (v : W32) (ds : List Delivery), s.pending = .write k 32 v :: .read k 32 :: ds →
    (∀ p ∈ ([(0x18, v &&& 7#32, { s.g with irqEn := v.extractLsb' 0 3 }), (0x20, v, { s.g with vbus := v })] :
        List (Nat × W32 × GlobalRegs)), k.toNat = p.1 →
      ∃ t u, step s = .next t ∧ step t = .next u ∧ t = { s.accept (.read k 32 :: ds) with g := p.2.2 } ∧
        u.bus = { error := false, rdata := some p.2.1 }) ∧
    ∀ a : Axis, let r := s.axis a
      ∀ p ∈ ([(0x18, v, { r with samp := { r.samp with currGain := v } }),
          (0x1C, v, { r with samp := { r.samp with dcB := v } }),
          (0x20, v, { r with samp := { r.samp with dcC := v } }),
          (0x34, v, { r with pll := { r.pll with encOffset := v } }),
          (0x48, v, { r with pll := { r.pll with pos := v } }),
          (0x4C, v, { r with pll := { r.pll with vel := v } }),
          (0x50, v, { r with pll := { r.pll with kp := v } }),
          (0x54, v, { r with pll := { r.pll with ki := v } }),
          (0x58, v, { r with pll := { r.pll with bw := v } }),
          (0x5C, v, { r with foc := { r.foc with phaseExt := v } }),
          (0x60, v, { r with foc := { r.foc with idSet := v } }),
          (0x64, v, { r with foc := { r.foc with iqSet := v } }),
          (0x68, v, { r with foc := { r.foc with kpI := v } }),
          (0x6C, v, { r with foc := { r.foc with kiI := v } }),
          (0x70, v, { r with foc := { r.foc with vIntD := v } }),
          (0x74, v, { r with foc := { r.foc with vIntQ := v } }),
          (0x8C, v, { r with foc := { r.foc with vAlpha := v } }),
          (0x90, v, { r with foc := { r.foc with vBeta := v } }),
          (0x94, v &&& 0xFFFF#32, { r with pwm := { r.pwm with period := v.extractLsb' 0 16 } }),
          (0x98, v &&& 0xFFFF#32, { r with pwm := { r.pwm with deadline := v.extractLsb' 0 16 } }),
          (0xB0, v &&& 1#32, { r with acog := { r.acog with mapValid := v.getLsbD 0 } }),
          (0xB4, v, { r with acog := { r.acog with pos := v } })] : List (Nat × W32 × AxisRegs)),
        k.toNat = axisAddr a p.1 →
        ∃ t u, step s = .next t ∧ step t = .next u ∧ State.OnlyAxis a (s.accept (.read k 32 :: ds)) t ∧
          t.brk = s.brk ∧ s.SameBytes t ∧ t.axis a = p.2.2 ∧ u.bus = { error := false, rdata := some p.2.1 }

/-- 10_state.md R62 to R66: the `WARL` configuration registers take a written value exactly when it is legal, and keep the
old one otherwise; no other register changes. That `-0.0` counts as legal for the ranges from `+0.0` on is the model's reading
(log 17). -/
def Obligations.ConfigurationRegistersTakeOnlyLegalValues : Prop :=
  ∀ (s : State) (k : BitVec 20) (v : W32) (ds : List Delivery), s.pending = .write k 32 v :: ds →
    (k.toNat = 0x24 → step s = .next { s.accept ds with
      g := { s.g with t := if isFinite v = true ∧ flt fZero v = true then v else s.g.t } }) ∧
    (k.toNat = 0x28 → step s = .next { s.accept ds with
      g := { s.g with dcTau := if isFinite v = true ∧ flt fZero v = true then v else s.g.dcTau } }) ∧
    (k.toNat = 0x2C → step s = .next { s.accept ds with
      g := { s.g with
        modLimitFrac := if isFinite v = true ∧ fle fZero v = true ∧ fle v fOne = true then v else s.g.modLimitFrac } }) ∧
    (k.toNat = 0x30 → step s = .next { s.accept ds with
      g := { s.g with brakeR := if isFinite v = true ∧ fle fZero v = true then v else s.g.brakeR } }) ∧
    (k.toNat = 0x34 → step s = .next { s.accept ds with
      g := { s.g with
        brakeDutyMax := if isFinite v = true ∧ fle fZero v = true ∧ fle v fOne = true then v else s.g.brakeDutyMax } })

/-- 10_state.md R78, R79: `CPR` takes `1 .. 65536` and `POLE_PAIRS` `1 .. 65535`, both only while the axis is disabled; a new
`CPR` clears `MAP_VALID`; the reset values are 8192 and 1. Nothing else of the block changes. -/
def Obligations.CprAndPolePairsAreLockedWhileEnabled : Prop :=
  ∀ (s : State) (a : Axis) (k : BitVec 20) (v : W32) (ds : List Delivery), s.pending = .write k 32 v :: ds →
    (k.toNat = axisAddr a 0x2C → ∃ t, step s = .next t ∧ State.OnlyAxis a (s.accept ds) t ∧ t.brk = s.brk ∧
      s.SameBytes t ∧ t.axis a =
        if (s.axis a).ctl.enable = false ∧ 1 ≤ v.toNat ∧ v.toNat ≤ 65536 then
          { s.axis a with
            pll := { (s.axis a).pll with cpr := v }
            acog := { (s.axis a).acog with
              mapValid := if v = (s.axis a).pll.cpr then (s.axis a).acog.mapValid else false } }
        else s.axis a) ∧
    (k.toNat = axisAddr a 0x30 → ∃ t, step s = .next t ∧ State.OnlyAxis a (s.accept ds) t ∧ t.brk = s.brk ∧
      s.SameBytes t ∧ t.axis a =
        if (s.axis a).ctl.enable = false ∧ 1 ≤ v.toNat ∧ v.toNat ≤ 65535 then
          { s.axis a with pll := { (s.axis a).pll with polePairs := v } }
        else s.axis a) ∧
    (State.reset.axis a).pll.cpr = 8192#32 ∧ (State.reset.axis a).pll.polePairs = 1#32

/-- 10_state.md R72, R73 (`W1C`), 60_exceptions.md R410: a write to `STATUS` clears `READY` and `OVERRUN` where it holds 1, changes
nothing else, and a cleared `READY` lowers `irq_ready[a]`; a write to `ERROR` clears the bits 0 to 9 where it holds 1, leaves the
others and changes nothing else, and `irq_fault` then stands exactly when enabled with some bit of either axis left. -/
def Obligations.StatusAndErrorWritesClearTheNamedBits : Prop :=
  ∀ (s : State) (a : Axis) (k : BitVec 20) (v : W32) (ds : List Delivery), s.pending = .write k 32 v :: ds →
    (k.toNat = axisAddr a 0x0C → ∃ t, step s = .next t ∧ State.OnlyAxis a (s.accept ds) t ∧ t.brk = s.brk ∧
      s.SameBytes t ∧
      t.axis a = { s.axis a with samp := { (s.axis a).samp with
        ready := if v.getLsbD 0 then false else (s.axis a).samp.ready
        overrun := if v.getLsbD 1 then false else (s.axis a).samp.overrun } } ∧
      (v.getLsbD 0 = true → irqReadyPort t a = false)) ∧
    (k.toNat = axisAddr a 0x10 → ∃ t, step s = .next t ∧ State.OnlyAxis a (s.accept ds) t ∧ t.brk = s.brk ∧
      s.SameBytes t ∧
      t.axis a = { s.axis a with ctl := { (s.axis a).ctl with error := (t.axis a).ctl.error } } ∧
      (∀ i, (t.axis a).ctl.error.getLsbD i = ((s.axis a).ctl.error.getLsbD i && !v.getLsbD i)) ∧
      readAxis t a .error = readAxis s a .error &&& ~~~v ∧
      (irqFaultPort t = true ↔
        s.g.irqEn.getLsbD 2 = true ∧ ∃ b i, (t.axis b).ctl.error.getLsbD i = true))

/-! ### Reset and invariants -/

/-- 70_reset_and_hazards.md R450, R451: what every register of the two register blocks reads after reset; and from every state, the
step of a reset delivery gives every register, the hidden staging among them, that value. -/
def Obligations.ResetRegistersReadTheirResetValues : Prop :=
  [GReg.id, .gcmdStatus, .seqStatus, .seqFaultInfo, .trigSel, .params, .irqEn, .irqStatus, .vbus, .t, .dcTau,
    .modLimitFrac, .brakeR, .brakeDutyMax, .brakeDuty, .brakeReported].map (readGlobal State.reset) =
  [0x4F444331#32, 0#32, 0#32, 0#32, 0#32, 0x000C810D#32, 0#32, 0#32, 0#32, 0#32, 0x3E4CCCCD#32, 0x3E4CCCCD#32, 0#32,
    0x3F666666#32, 0#32, 0#32] ∧
  (∀ a : Axis, readAxis State.reset a .cpr = 8192#32 ∧ readAxis State.reset a .polePairs = 1#32 ∧
    (∀ i : Fin 16, readAxis State.reset a (.tlog i.val) = 0#32) ∧
    ∀ r ∈ [AxReg.cmdStatus, .ctrl, .status, .error, .errorSet, .currGain, .dcB, .dcC, .sampleB, .sampleC, .encOffset,
      .encPrev, .encPos, .encPosMod, .elecPhase, .pllPos, .pllVel, .pllKp, .pllKi, .pllBw, .phaseExt, .idSet, .iqSet,
      .kpI, .kiI, .vIntD, .vIntQ, .idMeas, .iqMeas, .modD, .modQ, .ibus, .vAlpha, .vBeta, .pwmPeriod, .deadline,
      .pwmCmpA, .pwmCmpB, .pwmCmpC, .tlast, .tlogIdx, .acogCtrl, .acogPos, .acogFf], readAxis State.reset a r = 0#32) ∧
  ∀ (s : State) (ds : List Delivery), s.pending = .reset :: ds → ∃ t, step s = .next t ∧
    (∀ r, readGlobal t r = readGlobal State.reset r) ∧ (∀ a r, readAxis t a r = readAxis State.reset a r) ∧
    (∀ a, (t.axis a).samp.stageB = 0#32 ∧ (t.axis a).samp.stageC = 0#32) ∧
    t.g = State.reset.g ∧ t.seq = State.reset.seq ∧ t.brk = State.reset.brk ∧
    ∀ a, t.axis a = { State.reset.axis a with acog := { (State.reset.axis a).acog with
      scratch := (t.axis a).acog.scratch } }

/-- The invariant of Safety.lean holds after reset. -/
def Obligations.ResetMeetsTheInvariant : Prop := State.reset.Inv

/-- 10_state.md R55 to R73, R78, R79, 40_sequencer.md R231 to R233, 42_foc.md R320, 44_system.md R383, R384: every step, of whatever
delivery, keeps the invariant of Safety.lean. -/
def Obligations.EveryStepKeepsTheInvariant : Prop :=
  ∀ s t : State, s.Inv → step s = .next t → t.Inv

/-- 41_pll.md R274: the phase is in range after reset, after `PLL_INIT` and after every `PLL_UPDATE`; every step keeps it so; and a
bus write to `ELEC_PHASE` leaves it. -/
def Obligations.ElectricalPhaseStaysBelowTwoPi : Prop :=
  (∀ a, PhaseInRange (State.reset.axis a).pll.elecPhase) ∧
  (∀ (s t : State) (a : Axis), 1 ≤ (s.axis a).pll.cpr.toNat → (s.axis a).pll.cpr.toNat ≤ 65536 →
    exec (.pllInit a) s = .next t ∨ exec (.pllUpdate a) s = .next t → PhaseInRange (t.axis a).pll.elecPhase) ∧
  (∀ s t : State, s.Inv → (∀ a, PhaseInRange (s.axis a).pll.elecPhase) → step s = .next t →
    ∀ a, PhaseInRange (t.axis a).pll.elecPhase) ∧
  (∀ (s t : State) (a b : Axis) (k : BitVec 20) (v : W32) (ds : List Delivery), s.pending = .write k 32 v :: ds →
    k.toNat = axisAddr a 0x44 → step s = .next t → (t.axis b).pll.elecPhase = (s.axis b).pll.elecPhase)

/-- 10_state.md R66, R67, 42_foc.md R320, R321: the brake duty is never a NaN and stays in `[0, 1]` under every step. -/
def Obligations.BrakeDutyStaysAFraction : Prop :=
  ∀ s t : State, s.Inv → fle fZero s.brk.duty = true → fle s.brk.duty fOne = true → step s = .next t →
    fle fZero t.brk.duty = true ∧ fle t.brk.duty fOne = true

/-! ### Faults and the enable flag -/

/-- 60_exceptions.md R405, 44_system.md R384: a fault on one axis sets its bit and clears `ENABLE`; where `ENABLE` was 1, `BRK` is updated
as a disarming does; every other register of the axis, the other axis, `SEQ`, the configuration and the storage stay. -/
def Obligations.FaultSetsItsBitAndDisarmsTheAxis : Prop :=
  ∀ (s : State) (a : Axis) (e : BlockError),
    State.OnlyAxis a s (fault [a] e s) ∧ s.SameBytes (fault [a] e s) ∧
    (fault [a] e s).axis a = { s.axis a with ctl := { (s.axis a).ctl with
      enable := false, error := (s.axis a).ctl.error ||| e.mask } } ∧
    ((s.axis a).ctl.enable = true → (fault [a] e s).brk = brkAfterDisarm a s (fault [a] e s)) ∧
    ((s.axis a).ctl.enable = false → (fault [a] e s).brk = s.brk)

/-- 44_system.md R384, R383: a host write of `ENABLE = 0` to an armed axis clears its report, and then: no axis left armed gives duty
`+0.0`; the other axis armed and reported gives the aggregate; else the duty stays. Nothing else changes. -/
def Obligations.DisarmingRunsTheBrakeAggregation : Prop :=
  ∀ (s : State) (a : Axis) (k : BitVec 20) (v : W32) (ds : List Delivery), s.pending = .write k 32 v :: ds →
    k.toNat = axisAddr a 0x08 → (s.axis a).ctl.enable = true → v.getLsbD 0 = false →
    ∃ t, step s = .next t ∧ State.OnlyAxis a (s.accept ds) t ∧ s.SameBytes t ∧
      t.axis a = { s.axis a with ctl := { (s.axis a).ctl with enable := false, phaseSrc := v.getLsbD 1 } } ∧
      t.brk =
        if (s.axis a.other).ctl.enable = false then { duty := 0#32, reported := ⟨false, false⟩ }
        else if s.brk.reported.get a.other = true then { duty := brakeDutyOf t, reported := ⟨false, false⟩ }
        else { duty := s.brk.duty, reported := ⟨false, false⟩ }

/-- 44_system.md R383: the gate of `ENABLE` for every write that does not disarm an armed axis: `PHASE_SRC` is stored, `ENABLE` rises
only with `ERROR = 0`, arming changes nothing else. -/
def Obligations.EnableRisesOnlyWithNoErrorRecorded : Prop :=
  ∀ (s : State) (a : Axis) (k : BitVec 20) (v : W32) (ds : List Delivery), s.pending = .write k 32 v :: ds →
    k.toNat = axisAddr a 0x08 → ((s.axis a).ctl.enable = false ∨ v.getLsbD 0 = true) →
    ∃ t, step s = .next t ∧ State.OnlyAxis a (s.accept ds) t ∧ t.brk = s.brk ∧ s.SameBytes t ∧
      t.axis a = { s.axis a with ctl := { (s.axis a).ctl with
        phaseSrc := v.getLsbD 1
        enable := (s.axis a).ctl.enable || (v.getLsbD 0 && decide ((s.axis a).ctl.error = 0#10)) } }

/-- 10_state.md R74: `ERROR_SET` sets the bits 0 to 9 it names and ignores the others; with any of bits 3:0 it also disarms an
armed axis, with the effects of 44_system.md R384 on `BRK`; reads return 0. That nothing else changes, not `SEQ` nor the other axis
even for bit 0, is the model's reading of the rule (log 18). -/
def Obligations.ErrorSetRecordsAndDisarms : Prop :=
  ∀ (s : State) (a : Axis) (k : BitVec 20) (v : W32) (ds : List Delivery), s.pending = .write k 32 v :: ds →
    k.toNat = axisAddr a 0x14 →
    ∃ t, step s = .next t ∧ State.OnlyAxis a (s.accept ds) t ∧ s.SameBytes t ∧
      t.axis a = { s.axis a with ctl := { (s.axis a).ctl with
        error := (s.axis a).ctl.error ||| v.extractLsb' 0 10
        enable := (s.axis a).ctl.enable && decide (v.extractLsb' 0 4 = 0#4) } } ∧
      t.brk =
        (if v.extractLsb' 0 4 = 0#4 ∨ (s.axis a).ctl.enable = false then s.brk
        else if (s.axis a.other).ctl.enable = false then { duty := 0#32, reported := ⟨false, false⟩ }
        else if s.brk.reported.get a.other = true then { duty := brakeDutyOf t, reported := ⟨false, false⟩ }
        else { duty := s.brk.duty, reported := ⟨false, false⟩ }) ∧
      readAxis t a .errorSet = 0#32

/-- 10_state.md R73: an `ERROR` bit falls only by a host write of 1 to it in `ERROR`, or by reset. -/
def Obligations.ErrorBitsAreSticky : Prop :=
  ∀ (s t : State) (a : Axis) (i : Nat), step s = .next t → (s.axis a).ctl.error.getLsbD i = true →
    (t.axis a).ctl.error.getLsbD i = false →
    ∃ d ds, s.pending = d :: ds ∧ (d = .reset ∨ ∃ v, isWrite d (axisAddr a 0x10) v ∧ v.getLsbD i = true)

/-- 44_system.md R383, 60_exceptions.md R407: `ENABLE` rises only by a host write to `CTRL` with bit 0 set while no error is recorded;
the block never arms an axis. -/
def Obligations.OnlyAHostWriteArmsAnAxis : Prop :=
  ∀ (s t : State) (a : Axis), step s = .next t → (s.axis a).ctl.enable = false → (t.axis a).ctl.enable = true →
    (s.axis a).ctl.error = 0#10 ∧
      ∃ d ds v, s.pending = d :: ds ∧ isWrite d (axisAddr a 0x08) v ∧ v.getLsbD 0 = true

/-- 40_sequencer.md R234, 60_exceptions.md R406: `RUN` rises only by `SEQ_START`; the fault record changes only by an event while
`RUN = 1`, which clears `RUN`, or by reset. -/
def Obligations.OnlySeqStartSetsRun : Prop :=
  ∀ s t : State, step s = .next t →
    (s.seq.run = false → t.seq.run = true → ∃ d ds, s.pending = d :: ds ∧ isWrite d 0x00004 1#32) ∧
    (t.seq.faultInfo ≠ s.seq.faultInfo →
      (∃ e ds, s.pending = .event e :: ds ∧ s.seq.run = true ∧ t.seq.run = false) ∨
      ∃ ds, s.pending = .reset :: ds)

/-- 42_foc.md R320, R321: with both axes armed and none reported, the two reports give the same state in either order: the
duty of the sum and no report left; the first report alone changes no duty; the aggregate does not depend on which axis is
which; and it is the duty of R321's formula, whatever the draws of its NaNs. -/
def Obligations.BrakeReportsCommuteAndFollowTheFormula : Prop :=
  (∀ s : State, s.enabled .ax0 = true → s.enabled .ax1 = true → s.brk.reported = ⟨false, false⟩ →
    brkReport .ax1 (brkReport .ax0 s) = brkReport .ax0 (brkReport .ax1 s) ∧
    brkReport .ax1 (brkReport .ax0 s) = s.setBrk { duty := brakeDutyOf s, reported := ⟨false, false⟩ } ∧
    ∀ a, (brkReport a s).brk.duty = s.brk.duty) ∧
  (∀ s : State, brakeDutyOf { s with ax := ⟨s.ax.ax1, s.ax.ax0⟩ } = brakeDutyOf s) ∧
  ∀ (s : State) (n0 n1 n2 : F32), isNaN n0 = true → isNaN n1 = true → isNaN n2 = true →
    let ibusOf := fun r : AxisRegs => if r.ctl.enable then r.foc.ibus else fZero
    let regen := fneg (fadd n0 (ibusOf (s.axis .ax0)) (ibusOf (s.axis .ax1)))
    let ib := if flt fZero regen then regen else fZero
    let vb := s.g.vbus
    let d := if isFinite vb && flt fZero vb then fdiv n2 (fmul n1 ib s.g.brakeR) vb else fZero
    let d0 := if isNaN d then fZero else d
    brakeDutyOf s = if flt s.g.brakeDutyMax d0 then s.g.brakeDutyMax else d0

/-! ### System commands -/

/-- 44_system.md R380, R381: `NOP` and `GNOP` change nothing but their status, which becomes `OK`. -/
def Obligations.NopsOnlyWriteTheirStatus : Prop :=
  ∀ s : State,
    (∀ a, ∃ t, exec (.nop a) s = .next t ∧ State.OnlyStatus a .ok s t ∧ readAxis t a .cmdStatus = 0#32) ∧
    ∃ t, exec .gnop s = .next t ∧ State.OnlyGStatus .ok s t ∧ readGlobal t .gcmdStatus = 0#32

/-- 44_system.md R382: `SEQ_START` leaves `SEQ_STATUS = 0x10`, both units set up for axis 0, status `OK`, and changes nothing else:
not the fault record, no `ERROR` bit, no sample, no offset, no `ENABLE`. -/
def Obligations.SeqStartRestartsFromStateZero : Prop :=
  ∀ s : State, ∃ t, exec .seqStart s = .next t ∧ readGlobal t .seqStatus = 0x00000010#32 ∧
    readGlobal t .trigSel = 0#32 ∧ readGlobal t .gcmdStatus = 0#32 ∧ t.seq.faultInfo = s.seq.faultInfo ∧
    (∀ a, t.axis a = s.axis a) ∧ t.brk = s.brk ∧ t.g = { s.g with gcmdStatus := .ok } ∧ s.SameBytes t ∧
    s.SameInputs t

/-! ### Sampler -/

/-- 40_sequencer.md R234: while `RUN = 0` no event, of either kind, changes anything. -/
def Obligations.StoppedSequencerIgnoresEvents : Prop :=
  ∀ (s : State) (e : BitVec 16), s.seq.run = false → exec (decodeEvt e) s = .next s

/-- 40_sequencer.md R225, R235, R223: while `RUN = 1`, an event of a foreign unit (reason 1), with the wrong trigger (2), the wrong
channel (3) or a completion already in (4), the first that applies, is the sequencing fault: the record, `RUN = 0`, and
on both axes `ERROR[0] = 1` and `ENABLE = 0`; with an axis armed before, the brake duty is `+0.0` and no report is left. -/
def Obligations.UnexpectedEventIsASequencingFault : Prop :=
  ∀ (s : State) (e : BitVec 16) (reason : BitVec 4), s.seq.run = true →
    reason = (if e.getLsbD 13 then 1#4
      else if Axis.ofBool (e.getLsbD 14) ≠ seqAxis s.seq.state then 2#4
      else if Axis.ofBool (e.getLsbD 15) ≠ seqAxis s.seq.state then 3#4
      else if (if e.getLsbD 12 then s.seq.done.unit1 else s.seq.done.unit0) then 4#4 else 0#4) →
    reason ≠ 0#4 →
    ∃ t, exec (decodeEvt e) s = .next t ∧
      t.seq = { s.seq with run := false, faultInfo := t.seq.faultInfo } ∧
      t.seq.faultInfo.extractLsb' 0 16 = e ∧ t.seq.faultInfo.extractLsb' 16 2 = s.seq.state ∧
      t.seq.faultInfo.getLsbD 18 = s.seq.done.unit0 ∧ t.seq.faultInfo.getLsbD 19 = s.seq.done.unit1 ∧
      t.seq.faultInfo.extractLsb' 20 4 = reason ∧ t.seq.faultInfo.extractLsb' 24 8 = 0x80#8 ∧
      (∀ a, t.axis a = { s.axis a with ctl := { (s.axis a).ctl with
        enable := false, error := (s.axis a).ctl.error ||| 1#10 } }) ∧
      t.brk = (if s.enabled .ax0 || s.enabled .ax1 then { duty := 0#32, reported := ⟨false, false⟩ } else s.brk) ∧
      t.g = s.g ∧ s.SameBytes t ∧ s.SameInputs t

/-- 40_sequencer.md R225: with `RUN = 1` an event of a unit outside the pair always is the sequencing fault of reason 1. -/
def Obligations.ForeignEventStopsTheSequencer : Prop :=
  ∀ (s : State) (chan trig : Axis) (unit : BitVec 2) (raw : BitVec 12), s.seq.run = true →
    ∃ t, exec (.adcEocForeign chan trig unit raw) s = .next t ∧ t.seq.run = false ∧
      t.seq.faultInfo.extractLsb' 20 4 = 1#4 ∧ t.seq.faultInfo.extractLsb' 0 16 = evtWord chan trig unit raw ∧
      ∀ a, (t.axis a).ctl.error.getLsbD 0 = true ∧ (t.axis a).ctl.enable = false

/-- 40_sequencer.md R224, R226, R229 to R233: an expected event with a valid gain. The current of the reading feeds the offset
filter in a `DC` state and the staging in a `CUR` state; the unit is done and set up for the next state; the second unit
of the state completes it: a `CUR` state with `BAD = 0` publishes the staged pair, raises `READY`, and `OVERRUN` where
`READY` stood; the state advances. Nothing else changes. -/
def Obligations.ExpectedConversionIsFilteredOrStaged : Prop :=
  ∀ (s : State) (ax : Axis) (u1 : Bool) (raw : BitVec 12), s.seq.run = true → ax = seqAxis s.seq.state →
    (if u1 then s.seq.done.unit1 else s.seq.done.unit0) = false →
    isFinite (s.axis ax).samp.currGain = true → flt fZero (s.axis ax).samp.currGain = true →
    ∃ t, exec (.adcEoc ax ax (if u1 then 1#2 else 0#2) raw) s = .next t ∧
      let r := (s.axis ax).samp
      let cur := fmul (s.nanDraw 0) (i2f ((raw.toNat : Int) - 2048)) r.currGain
      let filtered := fun dc => fadd (s.nanDraw 4) dc
        (fmul (s.nanDraw 3) (fdiv (s.nanDraw 1) s.g.t s.g.dcTau) (fsub (s.nanDraw 2) cur dc))
      let current := s.seq.state = 0#2 ∨ s.seq.state = 2#2
      let r1 := if current then
          (if u1 then { r with stageC := fsub (s.nanDraw 5) cur r.dcC }
            else { r with stageB := fsub (s.nanDraw 5) cur r.dcB })
        else (if u1 then { r with dcC := filtered r.dcC } else { r with dcB := filtered r.dcB })
      let next := seqAxis (s.seq.state + 1#2)
      let trig := if u1 then { s.seq.trigSel with unit1 := next } else { s.seq.trigSel with unit0 := next }
      let both := (if u1 then s.seq.done.unit0 else s.seq.done.unit1)
      t.seq = (if both then
          { s.seq with state := s.seq.state + 1#2, done := ⟨false, false⟩, bad := false, trigSel := trig }
        else { s.seq with trigSel := trig, done := if u1 then { s.seq.done with unit1 := true }
          else { s.seq.done with unit0 := true } }) ∧
      t.axis ax = { s.axis ax with samp :=
        if both = true ∧ current ∧ s.seq.bad = false then
          { r1 with sampleB := r1.stageB, sampleC := r1.stageC, ready := true, overrun := r1.overrun || r1.ready }
        else r1 } ∧
      t.axis ax.other = s.axis ax.other ∧ t.g = s.g ∧ t.brk = s.brk ∧ s.SameBytes t ∧ s.SameInputs t

/-- 40_sequencer.md R227, R228, R232: an expected event with an invalid gain disarms its axis with `ERR_GAIN_INVALID` and discards
the result: no staging, no offset, and the state completes without a sample or `READY`; the other axis is unaffected, and
`BRK` changes as the disarming of an armed axis changes it (44_system.md R384). -/
def Obligations.InvalidGainDiscardsTheConversion : Prop :=
  ∀ (s : State) (ax : Axis) (u1 : Bool) (raw : BitVec 12), s.seq.run = true → ax = seqAxis s.seq.state →
    (if u1 then s.seq.done.unit1 else s.seq.done.unit0) = false →
    (isFinite (s.axis ax).samp.currGain && flt fZero (s.axis ax).samp.currGain) = false →
    ∃ t, exec (.adcEoc ax ax (if u1 then 1#2 else 0#2) raw) s = .next t ∧
      t.axis ax = { s.axis ax with ctl := { (s.axis ax).ctl with
        enable := false, error := (s.axis ax).ctl.error ||| 2#10 } } ∧
      t.axis ax.other = s.axis ax.other ∧
      t.brk = (if (s.axis ax).ctl.enable then brkAfterDisarm ax s t else s.brk) ∧
      (if (if u1 then s.seq.done.unit0 else s.seq.done.unit1) then
          t.seq.state = s.seq.state + 1#2 ∧ t.seq.done = ⟨false, false⟩ ∧ t.seq.bad = false
        else t.seq.state = s.seq.state ∧ t.seq.bad = true ∧
          t.seq.done = if u1 then { s.seq.done with unit1 := true } else { s.seq.done with unit0 := true }) ∧
      t.seq.run = true ∧ t.seq.faultInfo = s.seq.faultInfo ∧ t.g = s.g ∧ s.SameBytes t ∧ s.SameInputs t

/-- 40_sequencer.md R237, R239: from the start of a cycle with valid gains, the eight expected events, in either order within
each state and with any readings, go through; axis 0 signals at the second completion of state 0 and at no other event,
axis 1 at the second completion of state 2 and at no other, and the sequencer is back in state 0, running. -/
def Obligations.FullCycleSignalsEachAxisOnce : Prop :=
  ∀ (s : State) (o0 o1 o2 o3 : Bool) (raw : Fin 8 → BitVec 12), s.seq.run = true → s.seq.state = 0#2 →
    s.seq.done = ⟨false, false⟩ → s.seq.bad = false →
    (∀ a, isFinite (s.axis a).samp.currGain = true ∧ flt fZero (s.axis a).samp.currGain = true) →
    (∀ a, (s.axis a).samp.ready = false) →
    let ts := statesAfter (expectedPair .ax0 o0 (raw 0) (raw 1) ++ expectedPair .ax1 o1 (raw 2) (raw 3) ++
      expectedPair .ax1 o2 (raw 4) (raw 5) ++ expectedPair .ax0 o3 (raw 6) (raw 7)) s
    ts.map (fun t => (t.axis .ax0).samp.ready) = [false, true, true, true, true, true, true, true] ∧
    ts.map (fun t => (t.axis .ax1).samp.ready) = [false, false, false, false, false, true, true, true] ∧
    ts.map (fun t => t.seq.state) = [0#2, 1#2, 1#2, 2#2, 2#2, 3#2, 3#2, 0#2] ∧
    ∀ t ∈ ts, t.seq.run = true ∧ ∀ a, (t.axis a).samp.overrun = (s.axis a).samp.overrun

/-! ### Estimator -/

/-- 41_pll.md R270, with the phase of R266: `PLL_INIT` completes with `OK` and takes the counter as the origin; at a legal `CPR` the
phase is the same for every draw. Nothing else changes. -/
def Obligations.PllInitTakesTheCounterAsOrigin : Prop :=
  ∀ (s : State) (a : Axis), ∃ t, exec (.pllInit a) s = .next t ∧ State.OnlyAxis a s t ∧ t.brk = s.brk ∧
    s.SameBytes t ∧
      let r := (s.axis a).pll
      let cnt := s.encCnt.get a
      let counts : Int := ((r.polePairs.toNat : Int) *
        ((cnt.toNat : Int) % r.cpr.toNat - r.encOffset.toInt)) % r.cpr.toNat
      let phase := fun n0 n1 : F32 => fmul n1 (i2f counts) (fdiv n0 0x40C90FDB#32 (i2f r.cpr.toNat))
      t.axis a = { s.axis a with
        ctl := { (s.axis a).ctl with cmdStatus := .ok }
        pll := { r with encPrev := cnt, encPos := BitVec.ofNat 32 cnt.toNat,
                        encPosMod := BitVec.ofNat 32 (cnt.toNat % r.cpr.toNat),
                        pos := i2f cnt.toNat, vel := fZero,
                        elecPhase := phase (s.nanDraw 0) (s.nanDraw 1) } } ∧
      (1 ≤ r.cpr.toNat → r.cpr.toNat ≤ 65536 → ∀ n0 n1, (t.axis a).pll.elecPhase = phase n0 n1)

/-- 41_pll.md R264 to R267, R271: `PLL_UPDATE` completes with `OK` whatever the gains and the estimate: the 16-bit delta, the
32-bit position, its remainder, the phase, and the loop equations with the position just updated and the velocity from
before. Nothing else changes. -/
def Obligations.PllUpdateFollowsTheLoopEquations : Prop :=
  ∀ (s : State) (a : Axis), ∃ t, exec (.pllUpdate a) s = .next t ∧ State.OnlyAxis a s t ∧ t.brk = s.brk ∧
    s.SameBytes t ∧
      let r := (s.axis a).pll
      let cnt := s.encCnt.get a
      let pos : W32 := r.encPos + BitVec.ofInt 32 (cnt - r.encPrev).toInt
      let posMod : W32 := BitVec.ofInt 32 (pos.toInt % r.cpr.toNat)
      let counts : Int := ((r.polePairs.toNat : Int) * ((posMod.toNat : Int) - r.encOffset.toInt)) % r.cpr.toNat
      let posP := fadd (s.nanDraw 3) r.pos (fmul (s.nanDraw 2) s.g.t r.vel)
      let err := fsub (s.nanDraw 4) (i2f pos.toInt) posP
      t.axis a = { s.axis a with
        ctl := { (s.axis a).ctl with cmdStatus := .ok }
        pll := { r with
          encPrev := cnt, encPos := pos, encPosMod := posMod,
          elecPhase := fmul (s.nanDraw 1) (i2f counts) (fdiv (s.nanDraw 0) 0x40C90FDB#32 (i2f r.cpr.toNat)),
          pos := fadd (s.nanDraw 7) posP (fmul (s.nanDraw 6) (fmul (s.nanDraw 5) s.g.t r.kp) err),
          vel := fadd (s.nanDraw 10) r.vel (fmul (s.nanDraw 9) (fmul (s.nanDraw 8) s.g.t r.ki) err) } }

/-- 41_pll.md R273: from `PLL_INIT` at counter `c`, motions of at most 16 signed bits each are all counted exactly, across the
counter's wraps, as long as the position does not pass `±2^31`. -/
def Obligations.UnwrappedPositionIsExact : Prop :=
  ∀ (s : State) (a : Axis) (c : BitVec 16) (ds : List Int), (∀ d ∈ ds, -32768 ≤ d ∧ d ≤ 32767) →
    (∀ k, k ≤ ds.length → -2147483648 ≤ (c.toNat : Int) + (ds.take k).sum ∧
      (c.toNat : Int) + (ds.take k).sum < 2147483648) →
    ∃ t u, exec (.pllInit a) { s with encCnt := s.encCnt.set a c } = .next t ∧
      afterUpdates a (countsOf c ds) t = .next u ∧ (u.axis a).pll.encPos.toInt = (c.toNat : Int) + ds.sum

/-- 41_pll.md R272: `PLL_SET_BW` refuses a bandwidth that is not finite and positive or whose gains overflow (`E_ARG`), refuses gains
with `T·Kp < 1` false (`E_UNSTABLE`), and else stores `Kp = 2B`, `Ki = B·B`. A refusal changes nothing else; no free draw shows. -/
def Obligations.PllSetBwStoresOrRefusesTheGains : Prop :=
  ∀ (s : State) (a : Axis) (n0 n1 n2 : F32), isNaN n0 = true → isNaN n1 = true → isNaN n2 = true →
    let b := (s.axis a).pll.bw
    let kp := fmul n0 0x40000000#32 b
    let ki := fmul n1 b b
    ∃ t, exec (.pllSetBw a) s = .next t ∧
      if isFinite b = false ∨ flt 0x00000000#32 b = false ∨ isFinite kp = false ∨ isFinite ki = false then
        State.OnlyStatus a .eArg s t
      else if flt (fmul n2 s.g.t kp) 0x3F800000#32 = false then State.OnlyStatus a .eUnstable s t
      else State.OnlyAxis a s t ∧ t.brk = s.brk ∧ s.SameBytes t ∧
        t.axis a = { s.axis a with ctl := { (s.axis a).ctl with cmdStatus := .ok },
                                   pll := { (s.axis a).pll with kp := kp, ki := ki } }

/-- 41_pll.md R272, R269, 10_state.md R72: after a `PLL_SET_BW` that answers `OK`, `STATUS.PLL_UNSTABLE` reads 0. -/
def Obligations.AcceptedGainsReadAsStable : Prop :=
  ∀ (s t : State) (a : Axis), exec (.pllSetBw a) s = .next t → (t.axis a).ctl.cmdStatus = .ok →
    (readAxis t a .status).getLsbD 3 = false

/-! ### Current controller -/

/-- 42_foc.md R291: on a disabled axis `FOC_STEP` and `VOLT_STEP` answer `E_DISABLED`, on an armed one with a bus voltage that is
not finite and positive `E_ARG`, and write nothing but `CMD_STATUS`. -/
def Obligations.FocPreconditionsRefuseTheStep : Prop :=
  ∀ (s : State) (a : Axis) (i : Instr), i = .focStep a ∨ i = .voltStep a →
    ((s.axis a).ctl.enable = false → ∃ t, exec i s = .next t ∧ State.OnlyStatus a .eDisabled s t) ∧
    ((s.axis a).ctl.enable = true → (isFinite s.g.vbus && flt fZero s.g.vbus) = false →
      ∃ t, exec i s = .next t ∧ State.OnlyStatus a .eArg s t)

/-- 42_foc.md R292 to R300, R302, R310, R311, R320: the values of a `FOC_STEP` follow the Clarke, Park, PI, normalisation, limit, clip and
bus-current equations, each draw of a NaN its own; and a `FOC_STEP` on an armed axis with a legal bus voltage, no NaN duty
fraction and the deadline not reached commits those values, its timings and log entry, answers `OK` and reports to `BRK`, which
aggregates when the other axis is disabled or has reported. Nothing else changes. -/
def Obligations.FocStepCommitsAndReports : Prop :=
  (∀ (nan : Nat → F32) (g : GlobalRegs) (r : AxisRegs),
    let theta := if r.ctl.phaseSrc then r.foc.phaseExt else r.pll.elecPhase
    let c := cosF theta
    let sn := sinF theta
    let iAlpha := fsub (nan 0) (fneg r.samp.sampleB) r.samp.sampleC
    let iBeta := fmul (nan 2) 0x3F13CD3A#32 (fsub (nan 1) r.samp.sampleB r.samp.sampleC)
    let id := fadd (nan 5) (fmul (nan 3) c iAlpha) (fmul (nan 4) sn iBeta)
    let iq := fsub (nan 8) (fmul (nan 6) c iBeta) (fmul (nan 7) sn iAlpha)
    let ed := fsub (nan 9) r.foc.idSet id
    let eq := fsub (nan 10) r.foc.iqSet iq
    let vd := fadd (nan 12) r.foc.vIntD (fmul (nan 11) ed r.foc.kpI)
    let vq := fadd (nan 14) r.foc.vIntQ (fmul (nan 13) eq r.foc.kpI)
    let vToMod := fdiv (nan 16) 0x3F800000#32 (fmul (nan 15) 0x3F2AAAAB#32 g.vbus)
    let md := fmul (nan 17) vToMod vd
    let mq := fmul (nan 18) vToMod vq
    let lim := fmul (nan 20) g.modLimitFrac 0x3F5DB3D7#32
    let mag := fsqrt (nan 24) (fadd (nan 23) (fmul (nan 21) md md) (fmul (nan 22) mq mq))
    let clip := flt lim mag
    let sf := fdiv (nan 25) lim mag
    let kit := fmul (nan 25) r.foc.kiI g.t
    let md' := if clip then fmul (nan 26) sf md else md
    let mq' := if clip then fmul (nan 27) sf mq else mq
    focCompute nan g r =
      { id := id, iq := iq, md := md', mq := mq', sat := clip
        vid := if clip then fmul (nan 28) r.foc.vIntD 0x3F7D70A4#32
          else fadd (nan 27) r.foc.vIntD (fmul (nan 26) ed kit)
        viq := if clip then fmul (nan 29) r.foc.vIntQ 0x3F7D70A4#32
          else fadd (nan 29) r.foc.vIntQ (fmul (nan 28) eq kit)
        ibus := fadd (nan 32) (fmul (nan 30) md' id) (fmul (nan 31) mq' iq)
        duties := svm (fun n => nan (40 + n)) (fsub (nan 35) (fmul (nan 33) c md') (fmul (nan 34) sn mq'))
          (fadd (nan 38) (fmul (nan 36) c mq') (fmul (nan 37) sn md')) }) ∧
  ∀ (s : State) (a : Axis), (s.axis a).ctl.enable = true → isFinite s.g.vbus = true → flt fZero s.g.vbus = true →
    let v := focCompute s.nanDraw s.g (s.axis a)
    isNaN v.duties.tA = false → isNaN v.duties.tB = false → isNaN v.duties.tC = false →
    (s.pwmCnt.get a).toNat < (s.axis a).pwm.deadline.toNat →
    ∃ t, exec (.focStep a) s = .next t ∧ State.OnlyAxis a s t ∧ s.SameBytes t ∧
      let p := (s.axis a).pwm
      let count := fun n d => f2u16Trunc (fmul (s.nanDraw n) (fmin01 d) (i2f p.period.toNat))
      t.axis a = { s.axis a with
        ctl := { (s.axis a).ctl with cmdStatus := .ok }
        foc := { (s.axis a).foc with
          vIntD := v.vid, vIntQ := v.viq, modSat := v.sat, idMeas := v.id, iqMeas := v.iq, modD := v.md, modQ := v.mq,
          ibus := v.ibus }
        pwm := { p with
          cmpA := count 60 v.duties.tA, cmpB := count 61 v.duties.tB, cmpC := count 62 v.duties.tC,
          tlog := p.tlog.set p.tlogIdx.toNat (s.pwmCnt.get a) p.tlogIdx.isLt, tlogIdx := p.tlogIdx + 1#4,
          tlast := s.pwmCnt.get a } } ∧
      t.brk = if (s.axis a.other).ctl.enable = false ∨ s.brk.reported.get a.other = true
        then { duty := brakeDutyOf t, reported := ⟨false, false⟩ }
        else { duty := s.brk.duty, reported := s.brk.reported.set a true }

/-- 42_foc.md R301, R303 to R306, R310, R311, R320: the duty fractions of a modulation vector follow the formulas of its sextant; and
the same as for `FOC_STEP` holds for `VOLT_STEP`, whose duty fractions are those of the test voltage normalised by
`(2/3)·VBUS`, and which commits `IBUS = +0.0` and no other register of the current loop. -/
def Obligations.VoltStepCommitsAndReports : Prop :=
  (∀ (nan : Nat → F32) (al be : F32),
    let k := fmul (nan 0) 0x3F13CD3A#32 be
    let alPos := fle 0x00000000#32 al
    let bePos := fle 0x00000000#32 be
    let first := fun t u => fmul (nan 5) (fsub (nan 4) (fsub (nan 3) 0x3F800000#32 t) u) 0x3F000000#32
    let second := fun x t => fadd (nan 6) x t
    let third := fun x t => fadd (nan 7) x t
    svm nan al be =
      if (bePos && alPos && !flt al k) = true then
        let t1 := fsub (nan 1) al k
        let t2 := fmul (nan 2) 0x3F93CD3A#32 be
        let tA := first t1 t2
        { tA := tA, tB := second tA t1, tC := third (second tA t1) t2 }
      else if (bePos && (alPos || !flt al (fneg k))) = true then
        let t2 := fadd (nan 1) al k
        let t3 := fadd (nan 2) (fneg al) k
        let tB := first t2 t3
        { tA := second tB t3, tB := tB, tC := third (second tB t3) t2 }
      else if bePos = true then
        let t3 := fmul (nan 1) 0x3F93CD3A#32 be
        let t4 := fsub (nan 2) (fneg al) k
        let tB := first t3 t4
        { tA := third (second tB t4) t3, tB := tB, tC := second tB t4 }
      else if (!alPos && flt al k) = true then
        let t4 := fadd (nan 1) (fneg al) k
        let t5 := fneg (fmul (nan 2) 0x3F93CD3A#32 be)
        let tC := first t4 t5
        { tA := third (second tC t5) t4, tB := second tC t5, tC := tC }
      else if (!alPos || flt al (fneg k)) = true then
        let t5 := fsub (nan 1) (fneg al) k
        let t6 := fsub (nan 2) al k
        let tC := first t5 t6
        { tA := second tC t5, tB := third (second tC t5) t6, tC := tC }
      else
        let t6 := fneg (fmul (nan 1) 0x3F93CD3A#32 be)
        let t1 := fadd (nan 2) al k
        let tA := first t6 t1
        { tA := tA, tB := third (second tA t1) t6, tC := second tA t1 }) ∧
  ∀ (s : State) (a : Axis), (s.axis a).ctl.enable = true → isFinite s.g.vbus = true → flt fZero s.g.vbus = true →
    let vToMod := fdiv (s.nanDraw 16) fOne (fmul (s.nanDraw 15) fTwoThirds s.g.vbus)
    let d := svm (fun n => s.nanDraw (40 + n)) (fmul (s.nanDraw 17) vToMod (s.axis a).foc.vAlpha)
      (fmul (s.nanDraw 18) vToMod (s.axis a).foc.vBeta)
    isNaN d.tA = false → isNaN d.tB = false → isNaN d.tC = false →
    (s.pwmCnt.get a).toNat < (s.axis a).pwm.deadline.toNat →
    ∃ t, exec (.voltStep a) s = .next t ∧ State.OnlyAxis a s t ∧ s.SameBytes t ∧
      let p := (s.axis a).pwm
      let count := fun n x => f2u16Trunc (fmul (s.nanDraw n) (fmin01 x) (i2f p.period.toNat))
      t.axis a = { s.axis a with
        ctl := { (s.axis a).ctl with cmdStatus := .ok }
        foc := { (s.axis a).foc with ibus := 0#32 }
        pwm := { p with
          cmpA := count 60 d.tA, cmpB := count 61 d.tB, cmpC := count 62 d.tC,
          tlog := p.tlog.set p.tlogIdx.toNat (s.pwmCnt.get a) p.tlogIdx.isLt, tlogIdx := p.tlogIdx + 1#4,
          tlast := s.pwmCnt.get a } } ∧
      t.brk = if (s.axis a.other).ctl.enable = false ∨ s.brk.reported.get a.other = true
        then { duty := brakeDutyOf t, reported := ⟨false, false⟩ }
        else { duty := s.brk.duty, reported := s.brk.reported.set a true }

/-- 42_foc.md R311, R312, C4: a `FOC_STEP` or `VOLT_STEP` that reaches the deadline keeps its commit and its log entry, then records
`ERR_FOC_TIMING`, disarms the axis with the effects on `BRK` of 44_system.md R384 and no report of its own, and answers `E_TIMING`;
the next `FOC_STEP` or `VOLT_STEP` of the axis is then refused with `E_DISABLED` and writes nothing else. -/
def Obligations.MissedDeadlineDisarmsAfterTheCommit : Prop :=
  ∀ (s : State) (a : Axis) (i : Instr) (d : Duties) (foc : FocRegs),
    (s.axis a).ctl.enable = true → isFinite s.g.vbus = true → flt fZero s.g.vbus = true →
    (let v := focCompute s.nanDraw s.g (s.axis a)
     i = .focStep a ∧ d = v.duties ∧ foc = { (s.axis a).foc with
        vIntD := v.vid, vIntQ := v.viq, modSat := v.sat, idMeas := v.id, iqMeas := v.iq, modD := v.md, modQ := v.mq,
        ibus := v.ibus }) ∨
    (let vToMod := fdiv (s.nanDraw 16) fOne (fmul (s.nanDraw 15) fTwoThirds s.g.vbus)
     i = .voltStep a ∧ d = svm (fun n => s.nanDraw (40 + n)) (fmul (s.nanDraw 17) vToMod (s.axis a).foc.vAlpha)
        (fmul (s.nanDraw 18) vToMod (s.axis a).foc.vBeta) ∧ foc = { (s.axis a).foc with ibus := 0#32 }) →
    isNaN d.tA = false → isNaN d.tB = false → isNaN d.tC = false →
    (s.axis a).pwm.deadline.toNat ≤ (s.pwmCnt.get a).toNat →
    ∃ t, exec i s = .next t ∧ State.OnlyAxis a s t ∧ s.SameBytes t ∧
      let p := (s.axis a).pwm
      let count := fun n x => f2u16Trunc (fmul (s.nanDraw n) (fmin01 x) (i2f p.period.toNat))
      t.axis a = { s.axis a with
        ctl := { (s.axis a).ctl with
          cmdStatus := .eTiming, enable := false, error := (s.axis a).ctl.error ||| 4#10 }
        foc := foc
        pwm := { p with
          cmpA := count 60 d.tA, cmpB := count 61 d.tB, cmpC := count 62 d.tC,
          tlog := p.tlog.set p.tlogIdx.toNat (s.pwmCnt.get a) p.tlogIdx.isLt, tlogIdx := p.tlogIdx + 1#4,
          tlast := s.pwmCnt.get a } } ∧
      t.brk = brkAfterDisarm a s t ∧
      ∀ j, j = .focStep a ∨ j = .voltStep a →
        ∃ u, exec j t = .next u ∧ State.OnlyStatus a .eDisabled t u

/-- 42_foc.md R309, R303, R300, R301: a `FOC_STEP` or `VOLT_STEP` with a NaN among its duty fractions records `ERR_MODULATION`, disarms
the axis with the effects on `BRK` of 44_system.md R384, answers `E_MODULATION`, and changes no integrator, measurement, timing or
log entry; and a NaN in either sample, or in either test voltage, gives such a step. -/
def Obligations.NaNDutyIsAModulationFault : Prop :=
  ∀ (s : State) (a : Axis),
    let foc := (focCompute s.nanDraw s.g (s.axis a)).duties
    let vToMod := fdiv (s.nanDraw 16) fOne (fmul (s.nanDraw 15) fTwoThirds s.g.vbus)
    let volt := svm (fun n => s.nanDraw (40 + n)) (fmul (s.nanDraw 17) vToMod (s.axis a).foc.vAlpha)
      (fmul (s.nanDraw 18) vToMod (s.axis a).foc.vBeta)
    let someNaN := fun d : Duties => isNaN d.tA = true ∨ isNaN d.tB = true ∨ isNaN d.tC = true
    ((s.axis a).ctl.enable = true → isFinite s.g.vbus = true → flt fZero s.g.vbus = true →
      ∀ i, (i = .focStep a ∧ someNaN foc) ∨ (i = .voltStep a ∧ someNaN volt) →
      ∃ t, exec i s = .next t ∧ State.OnlyAxis a s t ∧ s.SameBytes t ∧
        t.axis a = { s.axis a with ctl := { (s.axis a).ctl with
          cmdStatus := .eModulation, enable := false, error := (s.axis a).ctl.error ||| 8#10 } } ∧
        t.brk = brkAfterDisarm a s t) ∧
    (isNaN (s.axis a).samp.sampleB = true ∨ isNaN (s.axis a).samp.sampleC = true → someNaN foc) ∧
    (isNaN (s.axis a).foc.vAlpha = true ∨ isNaN (s.axis a).foc.vBeta = true → someNaN volt)

/-- 42_foc.md R310, 00_scope.md R23: a duty fraction that is not a NaN gives a product that is finite, at least zero and below
`2^16`, where the conversion is defined, and a count of at most `PWM_PERIOD`. -/
def Obligations.CompareCountStaysWithinThePeriod : Prop :=
  ∀ (nan t : F32) (period : BitVec 16), isNaN t = false →
    let x := fmul nan (fmin01 t) (i2f period.toNat)
    isFinite x = true ∧ 0 ≤ fInt x ∧ fTrunc x < 65536 ∧ (compareCount nan t period).toNat ≤ period.toNat

/-- 42_foc.md R298, R300: a `FOC_STEP` that clips sets `MOD_SAT`, and each integrator becomes `x · DECAY` instead of accumulating,
whatever the draws: a finite one keeps its sign, never grows, and shrinks from 64 units of `2^-149` on. -/
def Obligations.ClippedStepDecaysTheIntegrators : Prop :=
  ∀ (s : State) (a : Axis), (s.axis a).ctl.enable = true → isFinite s.g.vbus = true → flt fZero s.g.vbus = true →
    let v := focCompute s.nanDraw s.g (s.axis a)
    v.sat = true → isNaN v.duties.tA = false → isNaN v.duties.tB = false → isNaN v.duties.tC = false →
    ∃ t, exec (.focStep a) s = .next t ∧ (readAxis t a .status).getLsbD 2 = true ∧
      ∀ p ∈ [((s.axis a).foc.vIntD, (t.axis a).foc.vIntD), ((s.axis a).foc.vIntQ, (t.axis a).foc.vIntQ)],
        (∀ nan, p.2 = fmul nan p.1 0x3F7D70A4#32) ∧
        (isFinite p.1 = true → fSign p.2 = fSign p.1 ∧ fMag p.2 ≤ fMag p.1 ∧
          (64 ≤ fUnits p.1 → fMag p.2 < fMag p.1))

/-- V-FOC-1 of 95_test_vectors.md, 42_foc.md R300, at every state that holds its operands: the numbers of the worked example. -/
def Obligations.FocStepWorkedExample : Prop :=
  ∀ (s : State) (a : Axis), (s.axis a).ctl.enable = true → (s.axis a).ctl.phaseSrc = true →
    (s.axis a).foc.phaseExt = 0#32 → (s.axis a).samp.sampleB = 0xBF000000#32 →
    (s.axis a).samp.sampleC = 0xBF000000#32 → (s.axis a).foc.idSet = 0#32 → (s.axis a).foc.iqSet = 0x40000000#32 →
    (s.axis a).foc.kpI = 0x3F000000#32 → (s.axis a).foc.kiI = 0x42C80000#32 → (s.axis a).foc.vIntD = 0#32 →
    (s.axis a).foc.vIntQ = 0#32 → s.g.vbus = 0x41C00000#32 → s.g.t = 0x3903126F#32 →
    s.g.modLimitFrac = 0x3E4CCCCD#32 → (s.axis a).pwm.period = 4000#16 → (s.axis a).pwm.deadline = 2000#16 →
    s.pwmCnt.get a = 1234#16 →
    ∃ t, exec (.focStep a) s = .next t ∧ readAxis t a .cmdStatus = 0#32 ∧
      [AxReg.idMeas, .iqMeas, .modD, .modQ, .vIntD, .vIntQ, .ibus, .pwmCmpA, .pwmCmpB, .pwmCmpC, .tlast].map
        (readAxis t a) =
      [0x3F800000#32, 0#32, 0xBD000000#32, 0x3D800000#32, 0xBC4CCCCD#32, 0x3CCCCCCD#32, 0xBD000000#32, 2125#32,
        1855#32, 2144#32, 1234#32]

/-! ### Anti-cogging -/

/-- 43_anticogging.md R345, R341: `ACOG_LOOKUP` answers `+0.0` with an unusable map, refuses a position that is not finite or does
not fit 32 bits (`E_ARG`) and a `CPR` beyond the map (`E_SIZE`), and else reads the entry at `emod(trunc(pos), CPR)`, an index
below `CPR`. Nothing else changes. -/
def Obligations.LookupReadsTheMapAtTheWrappedPosition : Prop :=
  ∀ (s : State) (a : Axis), 1 ≤ (s.axis a).pll.cpr.toNat →
    let r := (s.axis a).acog
    let cpr := (s.axis a).pll.cpr.toNat
    let done := fun (t : State) ff => State.OnlyAxis a s t ∧ t.brk = s.brk ∧ s.SameBytes t ∧
      t.axis a = { s.axis a with ctl := { (s.axis a).ctl with cmdStatus := .ok }, acog := { r with ff := ff } }
    ∃ t, exec (.acogLookup a) s = .next t ∧
      if r.mapValid = false then done t 0#32
      else if isFinite r.pos = false ∨ fTrunc r.pos < -2147483648 ∨ 2147483648 ≤ fTrunc r.pos then
        State.OnlyStatus a .eArg s t
      else if 8192 < cpr then State.OnlyStatus a .eSize s t
      else ∃ idx : Nat, idx < cpr ∧ (cpr : Int) ∣ fTrunc r.pos - idx ∧ done t (s.mapEntry a idx)

/-- 43_anticogging.md R346, R342, R353: at a supported `CPR`, `ACOG_COMPRESS` writes the `N_HARM` tuples it selects into the
harmonic table; no other byte, not the map and not `MAP_VALID`, changes; at any other `CPR` it answers `E_SIZE` only. With a NaN
in the map the transform's bins are free, the model's choice (log 20). -/
def Obligations.CompressWritesOnlyTheHarmonicTable : Prop :=
  ∀ (s : State) (a : Axis),
    let l := (s.axis a).pll.cpr.toNat
    ∃ t, exec (.acogCompress a) s = .next t ∧
      if l ∈ [4, 8, 16, 32, 64, 128, 256, 512, 1024, 2048, 4096, 8192] then
        State.OnlyAxis a s t ∧ t.brk = s.brk ∧
        (t.axis a).ctl = { (s.axis a).ctl with cmdStatus := .ok } ∧ (t.axis a).samp = (s.axis a).samp ∧
        (t.axis a).pll = (s.axis a).pll ∧ (t.axis a).foc = (s.axis a).foc ∧ (t.axis a).pwm = (s.axis a).pwm ∧
        (t.axis a).acog = { (s.axis a).acog with scratch := (t.axis a).acog.scratch } ∧
        (List.range 8).map (t.harmEntry a) =
          selectHarmonics (Config.tieRaw s.draws) l
            (fftFwd l ((List.range l).map fun n => (s.mapEntry a n, 0#32))) ∧
        ∀ n, (∀ j, j < 8 → ¬(harmAddr a j ≤ n ∧ n < harmAddr a j + 12)) → t.byteAt n = s.byteAt n
      else State.OnlyStatus a .eSize s t

/-- 43_anticogging.md R343, R344, R352: for every draw of the ties, the selected tuples are distinct candidate bins `1 .. L/2-1`
with their FFT values, keys non-increasing, no unselected candidate above a selected one; padding fills the rest exactly
when the candidates run out. -/
def Obligations.SelectionKeepsTheStrongestBins : Prop :=
  ∀ (tie : Nat → Nat) (l : Nat) (x : List Cplx), 4 ≤ l →
    let key := fun k => harmonicKey (x.getD k (0#32, 0#32))
    ∃ ks : List Nat, ks.length = min 8 (l / 2 - 1) ∧ ks.Nodup ∧ (∀ k ∈ ks, 1 ≤ k ∧ k ≤ l / 2 - 1) ∧
      ks.Pairwise (fun k k' => key k' ≤ key k) ∧
      (∀ k ∈ ks, ∀ k', 1 ≤ k' → k' ≤ l / 2 - 1 → k' ∉ ks → key k' ≤ key k) ∧
      selectHarmonics tie l x =
        ks.map (fun k => ⟨BitVec.ofNat 32 k, (x.getD k (0#32, 0#32)).1, (x.getD k (0#32, 0#32)).2⟩) ++
          List.replicate (8 - ks.length) ⟨0#32, 0#32, 0#32⟩

/-- 43_anticogging.md R347, R348, R356, R357: at a supported `CPR`, `ACOG_DECOMPRESS` scatters the entries that fit into a zero-filled
spectrum, a later entry winning, writes twice the real part of the inverse transform to `MAP[a][0 .. CPR-1]` and sets
`MAP_VALID`; no other byte changes; at any other `CPR` it answers `E_SIZE` only. -/
def Obligations.DecompressRebuildsTheMap : Prop :=
  ∀ (s : State) (a : Axis),
    let l := (s.axis a).pll.cpr.toNat
    ∃ t, exec (.acogDecompress a) s = .next t ∧
      if l ∈ [4, 8, 16, 32, 64, 128, 256, 512, 1024, 2048, 4096, 8192] then
        State.OnlyAxis a s t ∧ t.brk = s.brk ∧
        (t.axis a).ctl = { (s.axis a).ctl with cmdStatus := .ok } ∧ (t.axis a).samp = (s.axis a).samp ∧
        (t.axis a).pll = (s.axis a).pll ∧ (t.axis a).foc = (s.axis a).foc ∧ (t.axis a).pwm = (s.axis a).pwm ∧
        (t.axis a).acog = { (s.axis a).acog with mapValid := true, scratch := (t.axis a).acog.scratch } ∧
        (∃ z : List Cplx, z.length = l ∧
          (∀ k, k < l → z[k]? = some (((List.range 8).reverse.find? (fun j =>
              decide (k < l / 2 ∧ (s.harmEntry a j).index.toInt = k))).elim (0#32, 0#32)
            (fun j => ((s.harmEntry a j).re, (s.harmEntry a j).im)))) ∧
          ∀ n, n < l → t.mapEntry a n =
            fmul (s.nanDraw n) 0x40000000#32 ((fftInv l z).getD n (0#32, 0#32)).1) ∧
        ∀ n, ¬(mapAddr a 0 ≤ n ∧ n < mapAddr a l) → t.byteAt n = s.byteAt n
      else State.OnlyStatus a .eSize s t

/-- 43_anticogging.md R359, R358: at `CPR = 4`, a map of small integers compressed and decompressed becomes exactly
`m[n] - X[0]/4 - X[2]·(-1)^n/4`, in units of `2^-149` here multiplied by 4. -/
def Obligations.SmallRoundTripIsExact : Prop :=
  ∀ (s : State) (a : Axis) (m : Fin 4 → Int), (s.axis a).pll.cpr = 4#32 → (∀ n, |m n| ≤ 1000000) →
    (∀ n : Fin 4, s.mapEntry a n.val = i2f (m n)) →
    ∃ t u, exec (.acogCompress a) s = .next t ∧ exec (.acogDecompress a) t = .next u ∧
      (u.axis a).acog.mapValid = true ∧
      ∀ n : Fin 4, isFinite (u.mapEntry a n.val) = true ∧ 4 * fInt (u.mapEntry a n.val) =
        (4 * m n - (m 0 + m 1 + m 2 + m 3) - (-1) ^ n.val * (m 0 - m 1 + m 2 - m 3)) * 2 ^ 149

/-! ### Numerics -/

/-- 00_scope.md R17 to R19, R24: the one rounding of the arithmetic is the IEEE 754 rounding to nearest, ties to even, with
subnormals and overflow; sums, products and quotients of finite values are roundings of the exact result with the right
sign, an exactly zero sum is `-0.0` only for two negative zeros, a division by zero is infinite; with an infinite operand
the result is the infinity or zero IEEE 754 gives; and the free NaN is the result exactly where it gives one. -/
def Obligations.ArithmeticIsCorrectlyRounded : Prop :=
  (∀ n d : Nat, 0 < d → NearestEven n d (roundMag n d)) ∧
  (∀ nan x y : F32, isFinite x = true → isFinite y = true →
    (fInt x + fInt y ≠ 0 → NearestEven (fInt x + fInt y).natAbs 1 (fMag (fadd nan x y)) ∧
      fSign (fadd nan x y) = decide (fInt x + fInt y < 0)) ∧
    (fInt x + fInt y = 0 → fMag (fadd nan x y) = 0 ∧ fSign (fadd nan x y) = (fSign x && fSign y)) ∧
    (NearestEven (fUnits x * fUnits y) (2 ^ 149) (fMag (fmul nan x y)) ∧
      fSign (fmul nan x y) = (fSign x != fSign y)) ∧
    (fUnits y ≠ 0 → NearestEven (fUnits x * 2 ^ 149) (fUnits y) (fMag (fdiv nan x y)) ∧
      fSign (fdiv nan x y) = (fSign x != fSign y)) ∧
    (fUnits x ≠ 0 → fUnits y = 0 → isInf (fdiv nan x y) = true ∧ fSign (fdiv nan x y) = (fSign x != fSign y)) ∧
    (fUnits x = 0 → fUnits y = 0 → fdiv nan x y = nan)) ∧
  (∀ nan x y : F32, isInf x = true →
    (isFinite y = true ∨ y = x → fadd nan x y = x) ∧ (isFinite y = true → fadd nan y x = x) ∧
    (isInf y = true → y ≠ x → fadd nan x y = nan) ∧
    (isNaN y = false → fMag y ≠ 0 →
      isInf (fmul nan x y) = true ∧ fSign (fmul nan x y) = (fSign x != fSign y) ∧ fmul nan y x = fmul nan x y) ∧
    (fMag y = 0 → fmul nan x y = nan ∧ fmul nan y x = nan) ∧
    (isFinite y = true → isInf (fdiv nan x y) = true ∧ fSign (fdiv nan x y) = (fSign x != fSign y) ∧
      fMag (fdiv nan y x) = 0 ∧ fSign (fdiv nan y x) = (fSign y != fSign x)) ∧
    (isInf y = true → fdiv nan x y = nan)) ∧
  ∀ nan x y : F32, isNaN x = true ∨ isNaN y = true → fadd nan x y = nan ∧ fmul nan x y = nan ∧ fdiv nan x y = nan

/-- 00_scope.md R17: the square root of a finite value above zero is the nearest binary32 value to the real root. -/
def Obligations.SquareRootIsCorrectlyRounded : Prop :=
  ∀ nan x : F32, isFinite x = true → fSign x = false → 0 < fUnits x →
    isFinite (fsqrt nan x) = true ∧ fSign (fsqrt nan x) = false ∧
    ∀ k, k < 0x7F800000 → |(fUnits (fsqrt nan x) : ℝ) - Real.sqrt ((fUnits x : ℝ) * 2 ^ 149)| ≤
      |(magValue k : ℝ) - Real.sqrt ((fUnits x : ℝ) * 2 ^ 149)|

/-- 00_scope.md R27: the model's `sin_f` and `cos_f` have SC0, SC1 and SC2. -/
def Obligations.SineAndCosineHaveTheirProperties : Prop :=
  sinF 0x00000000#32 = 0x00000000#32 ∧ cosF 0x00000000#32 = 0x3F800000#32 ∧
  (∀ x, isFinite x = true → isFinite (sinF x) = true ∧ fle (sinF x) fOne = true ∧ fle 0xBF800000#32 (sinF x) = true ∧
    isFinite (cosF x) = true ∧ fle (cosF x) fOne = true ∧ fle 0xBF800000#32 (cosF x) = true) ∧
  (∀ x, isFinite x = false → isNaN (sinF x) = true ∧ isNaN (cosF x) = true)

/-- 00_scope.md R28: the model's transforms answer `L` values, all `+0.0` for an all-`+0.0` input (FFT-ZERO), and at length 4 the
exact DFT and IDFT where the inputs, the partial sums of the butterfly and the results are representable (FFT-EXACT4, as log 6
reads it). -/
def Obligations.TransformsHaveTheirProperties : Prop :=
  (∀ l z, z.length = l → (fftFwd l z).length = l ∧ (fftInv l z).length = l) ∧
  (∀ l, fftFwd l (List.replicate l (fZero, fZero)) = List.replicate l (fZero, fZero) ∧
    fftInv l (List.replicate l (fZero, fZero)) = List.replicate l (fZero, fZero)) ∧
  ∀ z0 z1 z2 z3 : Cplx, (∀ z ∈ [z0, z1, z2, z3], isFinite z.1 = true ∧ isFinite z.2 = true) →
    let re := fun z : Cplx => fInt z.1
    let im := fun z : Cplx => fInt z.2
    let ok := fun l : List Int => ∀ n ∈ l, representable n = true
    ok [re z0 + re z2, re z0 - re z2, re z1 + re z3, re z1 - re z3,
        im z0 + im z2, im z0 - im z2, im z1 + im z3, im z1 - im z3] →
    let fwd : List (Int × Int) :=
      [(re z0 + re z1 + re z2 + re z3, im z0 + im z1 + im z2 + im z3),
       (re z0 + im z1 - re z2 - im z3, im z0 - re z1 - im z2 + re z3),
       (re z0 - re z1 + re z2 - re z3, im z0 - im z1 + im z2 - im z3),
       (re z0 - im z1 - re z2 + im z3, im z0 + re z1 - im z2 - re z3)]
    let inv : List (Int × Int) :=
      [(re z0 + re z1 + re z2 + re z3, im z0 + im z1 + im z2 + im z3),
       (re z0 - im z1 - re z2 + im z3, im z0 + re z1 - im z2 - re z3),
       (re z0 - re z1 + re z2 - re z3, im z0 - im z1 + im z2 - im z3),
       (re z0 + im z1 - re z2 - im z3, im z0 - re z1 - im z2 + re z3)]
    ((∀ p ∈ fwd, ok [p.1, p.2]) → (fftFwd 4 [z0, z1, z2, z3]).map (fun z => (re z, im z)) = fwd) ∧
    ((∀ p ∈ inv, ok [p.1, p.2] ∧ p.1 % 4 = 0 ∧ p.2 % 4 = 0 ∧ ok [p.1 / 4, p.2 / 4]) →
      (fftInv 4 [z0, z1, z2, z3]).map (fun z => (re z, im z)) = inv.map fun p => (p.1 / 4, p.2 / 4))

/-! ### Independence of the axes -/

/-- 60_exceptions.md R416: a command of one axis leaves the other axis's registers and windows and `SEQ` alone, and what it does
depends on nothing of the other axis but the `ENABLE` and `IBUS` that `BRK` counts. -/
def Obligations.CommandsOfOneAxisDoNotTouchTheOther : Prop :=
  ∀ (i : Instr) (a : Axis) (s s' : State), commandAxis i = some a → State.AgreeFor a s s' →
    1 ≤ (s.axis a).pll.cpr.toNat →
    ∃ t t', exec i s = .next t ∧ exec i s' = .next t' ∧ State.AgreeFor a t t' ∧
      t.axis a.other = s.axis a.other ∧ t.seq = s.seq ∧ t.g = s.g ∧
      ∀ n, ¬ownByte a n → t.byteAt n = s.byteAt n
end

