-- ==== Sys2Proof/Laws/State.lean ====
section
/-!
SUPPORT. The small lemmas of the state: one per field per update, so that no proof unfolds a record update.
-/

namespace Sys2Proof.Machine

/-! ### One value per axis, one value per ADC unit -/

@[simp] theorem PerAxis.get_set_self {α : Type} (p : PerAxis α) (a : Axis) (v : α) : (p.set a v).get a = v := by
  cases a <;> rfl

@[simp] theorem PerAxis.get_set_other {α : Type} (p : PerAxis α) (a : Axis) (v : α) :
    (p.set a v).get a.other = p.get a.other := by cases a <;> rfl

theorem PerAxis.get_set {α : Type} (p : PerAxis α) (a b : Axis) (v : α) :
    (p.set a v).get b = if b = a then v else p.get b := by cases a <;> cases b <;> rfl

@[simp] theorem PerAxis.set_set {α : Type} (p : PerAxis α) (a : Axis) (v w : α) : (p.set a v).set a w = p.set a w := by
  cases a <;> rfl

@[simp] theorem PerAxis.set_get {α : Type} (p : PerAxis α) (a : Axis) : p.set a (p.get a) = p := by cases a <;> rfl

theorem PerAxis.ext_get {α : Type} {p q : PerAxis α} (h : ∀ a, p.get a = q.get a) : p = q := by
  cases p; cases q; simpa [PerAxis.get] using And.intro (h .ax0) (h .ax1)

@[simp] theorem PerUnit.get_set_self {α : Type} (p : PerUnit α) (u : AdcUnit) (v : α) : (p.set u v).get u = v := by
  cases u <;> rfl

theorem PerUnit.get_set {α : Type} (p : PerUnit α) (u w : AdcUnit) (v : α) :
    (p.set u v).get w = if w = u then v else p.get w := by cases u <;> cases w <;> rfl

@[simp] theorem Axis.other_other (a : Axis) : a.other.other = a := by cases a <;> rfl

@[simp] theorem Axis.other_ne (a : Axis) : a.other ≠ a := by cases a <;> decide

theorem Axis.eq_or_other (a b : Axis) : b = a ∨ b = a.other := by cases a <;> cases b <;> decide

@[simp] theorem Axis.ofBool_toBool (a : Axis) : Axis.ofBool a.toBool = a := by cases a <;> rfl

@[simp] theorem Axis.toBool_ofBool (b : Bool) : (Axis.ofBool b).toBool = b := by cases b <;> rfl

/-! ### The updates of the registers of an axis -/

@[simp] theorem State.setAxis_g (s : State) (a : Axis) (r : AxisRegs) : (s.setAxis a r).g = s.g := rfl
@[simp] theorem State.setAxis_seq (s : State) (a : Axis) (r : AxisRegs) : (s.setAxis a r).seq = s.seq := rfl
@[simp] theorem State.setAxis_brk (s : State) (a : Axis) (r : AxisRegs) : (s.setAxis a r).brk = s.brk := rfl
@[simp] theorem State.setAxis_mem (s : State) (a : Axis) (r : AxisRegs) : (s.setAxis a r).mem = s.mem := rfl
@[simp] theorem State.setAxis_epoch (s : State) (a : Axis) (r : AxisRegs) : (s.setAxis a r).epoch = s.epoch := rfl
@[simp] theorem State.setAxis_draws (s : State) (a : Axis) (r : AxisRegs) : (s.setAxis a r).draws = s.draws := rfl
@[simp] theorem State.setAxis_encCnt (s : State) (a : Axis) (r : AxisRegs) : (s.setAxis a r).encCnt = s.encCnt := rfl
@[simp] theorem State.setAxis_pwmCnt (s : State) (a : Axis) (r : AxisRegs) : (s.setAxis a r).pwmCnt = s.pwmCnt := rfl
@[simp] theorem State.setAxis_bus (s : State) (a : Axis) (r : AxisRegs) : (s.setAxis a r).bus = s.bus := rfl
@[simp] theorem State.setAxis_pending (s : State) (a : Axis) (r : AxisRegs) : (s.setAxis a r).pending = s.pending := rfl
@[simp] theorem State.setAxis_nanDraw (s : State) (a : Axis) (r : AxisRegs) : (s.setAxis a r).nanDraw = s.nanDraw := rfl
@[simp] theorem State.setAxis_byteAt (s : State) (a : Axis) (r : AxisRegs) : (s.setAxis a r).byteAt = s.byteAt := rfl
@[simp] theorem State.setAxis_axis_self (s : State) (a : Axis) (r : AxisRegs) :
    (s.setAxis a r).axis a = r := by cases a <;> rfl
@[simp] theorem State.setAxis_axis_other (s : State) (a : Axis) (r : AxisRegs) :
    (s.setAxis a r).axis a.other = s.axis a.other := by cases a <;> rfl
theorem State.setAxis_axis (s : State) (a b : Axis) (r : AxisRegs) :
    (s.setAxis a r).axis b = if b = a then r else s.axis b := by
  cases a <;> cases b <;> rfl

@[simp] theorem State.setCtl_g (s : State) (a : Axis) (r : CtlRegs) : (s.setCtl a r).g = s.g := rfl
@[simp] theorem State.setCtl_seq (s : State) (a : Axis) (r : CtlRegs) : (s.setCtl a r).seq = s.seq := rfl
@[simp] theorem State.setCtl_brk (s : State) (a : Axis) (r : CtlRegs) : (s.setCtl a r).brk = s.brk := rfl
@[simp] theorem State.setCtl_mem (s : State) (a : Axis) (r : CtlRegs) : (s.setCtl a r).mem = s.mem := rfl
@[simp] theorem State.setCtl_epoch (s : State) (a : Axis) (r : CtlRegs) : (s.setCtl a r).epoch = s.epoch := rfl
@[simp] theorem State.setCtl_draws (s : State) (a : Axis) (r : CtlRegs) : (s.setCtl a r).draws = s.draws := rfl
@[simp] theorem State.setCtl_encCnt (s : State) (a : Axis) (r : CtlRegs) : (s.setCtl a r).encCnt = s.encCnt := rfl
@[simp] theorem State.setCtl_pwmCnt (s : State) (a : Axis) (r : CtlRegs) : (s.setCtl a r).pwmCnt = s.pwmCnt := rfl
@[simp] theorem State.setCtl_bus (s : State) (a : Axis) (r : CtlRegs) : (s.setCtl a r).bus = s.bus := rfl
@[simp] theorem State.setCtl_pending (s : State) (a : Axis) (r : CtlRegs) : (s.setCtl a r).pending = s.pending := rfl
@[simp] theorem State.setCtl_nanDraw (s : State) (a : Axis) (r : CtlRegs) : (s.setCtl a r).nanDraw = s.nanDraw := rfl
@[simp] theorem State.setCtl_byteAt (s : State) (a : Axis) (r : CtlRegs) : (s.setCtl a r).byteAt = s.byteAt := rfl
@[simp] theorem State.setCtl_axis_self (s : State) (a : Axis) (r : CtlRegs) :
    (s.setCtl a r).axis a = { s.axis a with ctl := r } := by cases a <;> rfl
@[simp] theorem State.setCtl_axis_other (s : State) (a : Axis) (r : CtlRegs) :
    (s.setCtl a r).axis a.other = s.axis a.other := by cases a <;> rfl
theorem State.setCtl_axis (s : State) (a b : Axis) (r : CtlRegs) :
    (s.setCtl a r).axis b = if b = a then { s.axis a with ctl := r } else s.axis b := by
  cases a <;> cases b <;> rfl

@[simp] theorem State.setSamp_g (s : State) (a : Axis) (r : SampRegs) : (s.setSamp a r).g = s.g := rfl
@[simp] theorem State.setSamp_seq (s : State) (a : Axis) (r : SampRegs) : (s.setSamp a r).seq = s.seq := rfl
@[simp] theorem State.setSamp_brk (s : State) (a : Axis) (r : SampRegs) : (s.setSamp a r).brk = s.brk := rfl
@[simp] theorem State.setSamp_mem (s : State) (a : Axis) (r : SampRegs) : (s.setSamp a r).mem = s.mem := rfl
@[simp] theorem State.setSamp_epoch (s : State) (a : Axis) (r : SampRegs) : (s.setSamp a r).epoch = s.epoch := rfl
@[simp] theorem State.setSamp_draws (s : State) (a : Axis) (r : SampRegs) : (s.setSamp a r).draws = s.draws := rfl
@[simp] theorem State.setSamp_encCnt (s : State) (a : Axis) (r : SampRegs) : (s.setSamp a r).encCnt = s.encCnt := rfl
@[simp] theorem State.setSamp_pwmCnt (s : State) (a : Axis) (r : SampRegs) : (s.setSamp a r).pwmCnt = s.pwmCnt := rfl
@[simp] theorem State.setSamp_bus (s : State) (a : Axis) (r : SampRegs) : (s.setSamp a r).bus = s.bus := rfl
@[simp] theorem State.setSamp_pending (s : State) (a : Axis) (r : SampRegs) : (s.setSamp a r).pending = s.pending := rfl
@[simp] theorem State.setSamp_nanDraw (s : State) (a : Axis) (r : SampRegs) : (s.setSamp a r).nanDraw = s.nanDraw := rfl
@[simp] theorem State.setSamp_byteAt (s : State) (a : Axis) (r : SampRegs) : (s.setSamp a r).byteAt = s.byteAt := rfl
@[simp] theorem State.setSamp_axis_self (s : State) (a : Axis) (r : SampRegs) :
    (s.setSamp a r).axis a = { s.axis a with samp := r } := by cases a <;> rfl
@[simp] theorem State.setSamp_axis_other (s : State) (a : Axis) (r : SampRegs) :
    (s.setSamp a r).axis a.other = s.axis a.other := by cases a <;> rfl
theorem State.setSamp_axis (s : State) (a b : Axis) (r : SampRegs) :
    (s.setSamp a r).axis b = if b = a then { s.axis a with samp := r } else s.axis b := by
  cases a <;> cases b <;> rfl

@[simp] theorem State.setPll_g (s : State) (a : Axis) (r : PllRegs) : (s.setPll a r).g = s.g := rfl
@[simp] theorem State.setPll_seq (s : State) (a : Axis) (r : PllRegs) : (s.setPll a r).seq = s.seq := rfl
@[simp] theorem State.setPll_brk (s : State) (a : Axis) (r : PllRegs) : (s.setPll a r).brk = s.brk := rfl
@[simp] theorem State.setPll_mem (s : State) (a : Axis) (r : PllRegs) : (s.setPll a r).mem = s.mem := rfl
@[simp] theorem State.setPll_epoch (s : State) (a : Axis) (r : PllRegs) : (s.setPll a r).epoch = s.epoch := rfl
@[simp] theorem State.setPll_draws (s : State) (a : Axis) (r : PllRegs) : (s.setPll a r).draws = s.draws := rfl
@[simp] theorem State.setPll_encCnt (s : State) (a : Axis) (r : PllRegs) : (s.setPll a r).encCnt = s.encCnt := rfl
@[simp] theorem State.setPll_pwmCnt (s : State) (a : Axis) (r : PllRegs) : (s.setPll a r).pwmCnt = s.pwmCnt := rfl
@[simp] theorem State.setPll_bus (s : State) (a : Axis) (r : PllRegs) : (s.setPll a r).bus = s.bus := rfl
@[simp] theorem State.setPll_pending (s : State) (a : Axis) (r : PllRegs) : (s.setPll a r).pending = s.pending := rfl
@[simp] theorem State.setPll_nanDraw (s : State) (a : Axis) (r : PllRegs) : (s.setPll a r).nanDraw = s.nanDraw := rfl
@[simp] theorem State.setPll_byteAt (s : State) (a : Axis) (r : PllRegs) : (s.setPll a r).byteAt = s.byteAt := rfl
@[simp] theorem State.setPll_axis_self (s : State) (a : Axis) (r : PllRegs) :
    (s.setPll a r).axis a = { s.axis a with pll := r } := by cases a <;> rfl
@[simp] theorem State.setPll_axis_other (s : State) (a : Axis) (r : PllRegs) :
    (s.setPll a r).axis a.other = s.axis a.other := by cases a <;> rfl
theorem State.setPll_axis (s : State) (a b : Axis) (r : PllRegs) :
    (s.setPll a r).axis b = if b = a then { s.axis a with pll := r } else s.axis b := by
  cases a <;> cases b <;> rfl

@[simp] theorem State.setFoc_g (s : State) (a : Axis) (r : FocRegs) : (s.setFoc a r).g = s.g := rfl
@[simp] theorem State.setFoc_seq (s : State) (a : Axis) (r : FocRegs) : (s.setFoc a r).seq = s.seq := rfl
@[simp] theorem State.setFoc_brk (s : State) (a : Axis) (r : FocRegs) : (s.setFoc a r).brk = s.brk := rfl
@[simp] theorem State.setFoc_mem (s : State) (a : Axis) (r : FocRegs) : (s.setFoc a r).mem = s.mem := rfl
@[simp] theorem State.setFoc_epoch (s : State) (a : Axis) (r : FocRegs) : (s.setFoc a r).epoch = s.epoch := rfl
@[simp] theorem State.setFoc_draws (s : State) (a : Axis) (r : FocRegs) : (s.setFoc a r).draws = s.draws := rfl
@[simp] theorem State.setFoc_encCnt (s : State) (a : Axis) (r : FocRegs) : (s.setFoc a r).encCnt = s.encCnt := rfl
@[simp] theorem State.setFoc_pwmCnt (s : State) (a : Axis) (r : FocRegs) : (s.setFoc a r).pwmCnt = s.pwmCnt := rfl
@[simp] theorem State.setFoc_bus (s : State) (a : Axis) (r : FocRegs) : (s.setFoc a r).bus = s.bus := rfl
@[simp] theorem State.setFoc_pending (s : State) (a : Axis) (r : FocRegs) : (s.setFoc a r).pending = s.pending := rfl
@[simp] theorem State.setFoc_nanDraw (s : State) (a : Axis) (r : FocRegs) : (s.setFoc a r).nanDraw = s.nanDraw := rfl
@[simp] theorem State.setFoc_byteAt (s : State) (a : Axis) (r : FocRegs) : (s.setFoc a r).byteAt = s.byteAt := rfl
@[simp] theorem State.setFoc_axis_self (s : State) (a : Axis) (r : FocRegs) :
    (s.setFoc a r).axis a = { s.axis a with foc := r } := by cases a <;> rfl
@[simp] theorem State.setFoc_axis_other (s : State) (a : Axis) (r : FocRegs) :
    (s.setFoc a r).axis a.other = s.axis a.other := by cases a <;> rfl
theorem State.setFoc_axis (s : State) (a b : Axis) (r : FocRegs) :
    (s.setFoc a r).axis b = if b = a then { s.axis a with foc := r } else s.axis b := by
  cases a <;> cases b <;> rfl

@[simp] theorem State.setPwm_g (s : State) (a : Axis) (r : PwmRegs) : (s.setPwm a r).g = s.g := rfl
@[simp] theorem State.setPwm_seq (s : State) (a : Axis) (r : PwmRegs) : (s.setPwm a r).seq = s.seq := rfl
@[simp] theorem State.setPwm_brk (s : State) (a : Axis) (r : PwmRegs) : (s.setPwm a r).brk = s.brk := rfl
@[simp] theorem State.setPwm_mem (s : State) (a : Axis) (r : PwmRegs) : (s.setPwm a r).mem = s.mem := rfl
@[simp] theorem State.setPwm_epoch (s : State) (a : Axis) (r : PwmRegs) : (s.setPwm a r).epoch = s.epoch := rfl
@[simp] theorem State.setPwm_draws (s : State) (a : Axis) (r : PwmRegs) : (s.setPwm a r).draws = s.draws := rfl
@[simp] theorem State.setPwm_encCnt (s : State) (a : Axis) (r : PwmRegs) : (s.setPwm a r).encCnt = s.encCnt := rfl
@[simp] theorem State.setPwm_pwmCnt (s : State) (a : Axis) (r : PwmRegs) : (s.setPwm a r).pwmCnt = s.pwmCnt := rfl
@[simp] theorem State.setPwm_bus (s : State) (a : Axis) (r : PwmRegs) : (s.setPwm a r).bus = s.bus := rfl
@[simp] theorem State.setPwm_pending (s : State) (a : Axis) (r : PwmRegs) : (s.setPwm a r).pending = s.pending := rfl
@[simp] theorem State.setPwm_nanDraw (s : State) (a : Axis) (r : PwmRegs) : (s.setPwm a r).nanDraw = s.nanDraw := rfl
@[simp] theorem State.setPwm_byteAt (s : State) (a : Axis) (r : PwmRegs) : (s.setPwm a r).byteAt = s.byteAt := rfl
@[simp] theorem State.setPwm_axis_self (s : State) (a : Axis) (r : PwmRegs) :
    (s.setPwm a r).axis a = { s.axis a with pwm := r } := by cases a <;> rfl
@[simp] theorem State.setPwm_axis_other (s : State) (a : Axis) (r : PwmRegs) :
    (s.setPwm a r).axis a.other = s.axis a.other := by cases a <;> rfl
theorem State.setPwm_axis (s : State) (a b : Axis) (r : PwmRegs) :
    (s.setPwm a r).axis b = if b = a then { s.axis a with pwm := r } else s.axis b := by
  cases a <;> cases b <;> rfl

@[simp] theorem State.setAcog_g (s : State) (a : Axis) (r : AcogRegs) : (s.setAcog a r).g = s.g := rfl
@[simp] theorem State.setAcog_seq (s : State) (a : Axis) (r : AcogRegs) : (s.setAcog a r).seq = s.seq := rfl
@[simp] theorem State.setAcog_brk (s : State) (a : Axis) (r : AcogRegs) : (s.setAcog a r).brk = s.brk := rfl
@[simp] theorem State.setAcog_mem (s : State) (a : Axis) (r : AcogRegs) : (s.setAcog a r).mem = s.mem := rfl
@[simp] theorem State.setAcog_epoch (s : State) (a : Axis) (r : AcogRegs) : (s.setAcog a r).epoch = s.epoch := rfl
@[simp] theorem State.setAcog_draws (s : State) (a : Axis) (r : AcogRegs) : (s.setAcog a r).draws = s.draws := rfl
@[simp] theorem State.setAcog_encCnt (s : State) (a : Axis) (r : AcogRegs) : (s.setAcog a r).encCnt = s.encCnt := rfl
@[simp] theorem State.setAcog_pwmCnt (s : State) (a : Axis) (r : AcogRegs) : (s.setAcog a r).pwmCnt = s.pwmCnt := rfl
@[simp] theorem State.setAcog_bus (s : State) (a : Axis) (r : AcogRegs) : (s.setAcog a r).bus = s.bus := rfl
@[simp] theorem State.setAcog_pending (s : State) (a : Axis) (r : AcogRegs) : (s.setAcog a r).pending = s.pending := rfl
@[simp] theorem State.setAcog_nanDraw (s : State) (a : Axis) (r : AcogRegs) : (s.setAcog a r).nanDraw = s.nanDraw := rfl
@[simp] theorem State.setAcog_byteAt (s : State) (a : Axis) (r : AcogRegs) : (s.setAcog a r).byteAt = s.byteAt := rfl
@[simp] theorem State.setAcog_axis_self (s : State) (a : Axis) (r : AcogRegs) :
    (s.setAcog a r).axis a = { s.axis a with acog := r } := by cases a <;> rfl
@[simp] theorem State.setAcog_axis_other (s : State) (a : Axis) (r : AcogRegs) :
    (s.setAcog a r).axis a.other = s.axis a.other := by cases a <;> rfl
theorem State.setAcog_axis (s : State) (a b : Axis) (r : AcogRegs) :
    (s.setAcog a r).axis b = if b = a then { s.axis a with acog := r } else s.axis b := by
  cases a <;> cases b <;> rfl

@[simp] theorem State.setStatus_g (s : State) (a : Axis) (r : Status) : (s.setStatus a r).g = s.g := rfl
@[simp] theorem State.setStatus_seq (s : State) (a : Axis) (r : Status) : (s.setStatus a r).seq = s.seq := rfl
@[simp] theorem State.setStatus_brk (s : State) (a : Axis) (r : Status) : (s.setStatus a r).brk = s.brk := rfl
@[simp] theorem State.setStatus_mem (s : State) (a : Axis) (r : Status) : (s.setStatus a r).mem = s.mem := rfl
@[simp] theorem State.setStatus_epoch (s : State) (a : Axis) (r : Status) : (s.setStatus a r).epoch = s.epoch := rfl
@[simp] theorem State.setStatus_draws (s : State) (a : Axis) (r : Status) : (s.setStatus a r).draws = s.draws := rfl
@[simp] theorem State.setStatus_encCnt (s : State) (a : Axis) (r : Status) : (s.setStatus a r).encCnt = s.encCnt := rfl
@[simp] theorem State.setStatus_pwmCnt (s : State) (a : Axis) (r : Status) : (s.setStatus a r).pwmCnt = s.pwmCnt := rfl
@[simp] theorem State.setStatus_bus (s : State) (a : Axis) (r : Status) : (s.setStatus a r).bus = s.bus := rfl
@[simp] theorem State.setStatus_pending (s : State) (a : Axis) (r : Status) : (s.setStatus a r).pending = s.pending := rfl
@[simp] theorem State.setStatus_nanDraw (s : State) (a : Axis) (r : Status) : (s.setStatus a r).nanDraw = s.nanDraw := rfl
@[simp] theorem State.setStatus_byteAt (s : State) (a : Axis) (r : Status) : (s.setStatus a r).byteAt = s.byteAt := rfl
@[simp] theorem State.setStatus_axis_self (s : State) (a : Axis) (r : Status) :
    (s.setStatus a r).axis a = { s.axis a with ctl := { (s.axis a).ctl with cmdStatus := r } } := by cases a <;> rfl
@[simp] theorem State.setStatus_axis_other (s : State) (a : Axis) (r : Status) :
    (s.setStatus a r).axis a.other = s.axis a.other := by cases a <;> rfl
theorem State.setStatus_axis (s : State) (a b : Axis) (r : Status) :
    (s.setStatus a r).axis b =
      if b = a then { s.axis a with ctl := { (s.axis a).ctl with cmdStatus := r } } else s.axis b := by
  cases a <;> cases b <;> rfl

/-! ### The updates of the shared registers and of the model's own fields -/

@[simp] theorem State.setG_g (s : State) (r : GlobalRegs) : (s.setG r).g = r := rfl
@[simp] theorem State.setG_seq (s : State) (r : GlobalRegs) : (s.setG r).seq = s.seq := rfl
@[simp] theorem State.setG_brk (s : State) (r : GlobalRegs) : (s.setG r).brk = s.brk := rfl
@[simp] theorem State.setG_ax (s : State) (r : GlobalRegs) : (s.setG r).ax = s.ax := rfl
@[simp] theorem State.setG_mem (s : State) (r : GlobalRegs) : (s.setG r).mem = s.mem := rfl
@[simp] theorem State.setG_epoch (s : State) (r : GlobalRegs) : (s.setG r).epoch = s.epoch := rfl
@[simp] theorem State.setG_draws (s : State) (r : GlobalRegs) : (s.setG r).draws = s.draws := rfl
@[simp] theorem State.setG_encCnt (s : State) (r : GlobalRegs) : (s.setG r).encCnt = s.encCnt := rfl
@[simp] theorem State.setG_pwmCnt (s : State) (r : GlobalRegs) : (s.setG r).pwmCnt = s.pwmCnt := rfl
@[simp] theorem State.setG_bus (s : State) (r : GlobalRegs) : (s.setG r).bus = s.bus := rfl
@[simp] theorem State.setG_pending (s : State) (r : GlobalRegs) : (s.setG r).pending = s.pending := rfl
@[simp] theorem State.setG_axis (s : State) (r : GlobalRegs) : (s.setG r).axis = s.axis := rfl
@[simp] theorem State.setG_enabled (s : State) (r : GlobalRegs) : (s.setG r).enabled = s.enabled := rfl
@[simp] theorem State.setG_nanDraw (s : State) (r : GlobalRegs) : (s.setG r).nanDraw = s.nanDraw := rfl
@[simp] theorem State.setG_byteAt (s : State) (r : GlobalRegs) : (s.setG r).byteAt = s.byteAt := rfl

@[simp] theorem State.setGStatus_g (s : State) (c : Status) : (s.setGStatus c).g = { s.g with gcmdStatus := c } := rfl
@[simp] theorem State.setGStatus_seq (s : State) (c : Status) : (s.setGStatus c).seq = s.seq := rfl
@[simp] theorem State.setGStatus_brk (s : State) (c : Status) : (s.setGStatus c).brk = s.brk := rfl
@[simp] theorem State.setGStatus_ax (s : State) (c : Status) : (s.setGStatus c).ax = s.ax := rfl
@[simp] theorem State.setGStatus_mem (s : State) (c : Status) : (s.setGStatus c).mem = s.mem := rfl
@[simp] theorem State.setGStatus_epoch (s : State) (c : Status) : (s.setGStatus c).epoch = s.epoch := rfl
@[simp] theorem State.setGStatus_draws (s : State) (c : Status) : (s.setGStatus c).draws = s.draws := rfl
@[simp] theorem State.setGStatus_encCnt (s : State) (c : Status) : (s.setGStatus c).encCnt = s.encCnt := rfl
@[simp] theorem State.setGStatus_pwmCnt (s : State) (c : Status) : (s.setGStatus c).pwmCnt = s.pwmCnt := rfl
@[simp] theorem State.setGStatus_bus (s : State) (c : Status) : (s.setGStatus c).bus = s.bus := rfl
@[simp] theorem State.setGStatus_pending (s : State) (c : Status) : (s.setGStatus c).pending = s.pending := rfl
@[simp] theorem State.setGStatus_axis (s : State) (c : Status) : (s.setGStatus c).axis = s.axis := rfl
@[simp] theorem State.setGStatus_enabled (s : State) (c : Status) : (s.setGStatus c).enabled = s.enabled := rfl
@[simp] theorem State.setGStatus_nanDraw (s : State) (c : Status) : (s.setGStatus c).nanDraw = s.nanDraw := rfl
@[simp] theorem State.setGStatus_byteAt (s : State) (c : Status) : (s.setGStatus c).byteAt = s.byteAt := rfl

@[simp] theorem State.setSeq_g (s : State) (r : SeqRegs) : (s.setSeq r).g = s.g := rfl
@[simp] theorem State.setSeq_seq (s : State) (r : SeqRegs) : (s.setSeq r).seq = r := rfl
@[simp] theorem State.setSeq_brk (s : State) (r : SeqRegs) : (s.setSeq r).brk = s.brk := rfl
@[simp] theorem State.setSeq_ax (s : State) (r : SeqRegs) : (s.setSeq r).ax = s.ax := rfl
@[simp] theorem State.setSeq_mem (s : State) (r : SeqRegs) : (s.setSeq r).mem = s.mem := rfl
@[simp] theorem State.setSeq_epoch (s : State) (r : SeqRegs) : (s.setSeq r).epoch = s.epoch := rfl
@[simp] theorem State.setSeq_draws (s : State) (r : SeqRegs) : (s.setSeq r).draws = s.draws := rfl
@[simp] theorem State.setSeq_encCnt (s : State) (r : SeqRegs) : (s.setSeq r).encCnt = s.encCnt := rfl
@[simp] theorem State.setSeq_pwmCnt (s : State) (r : SeqRegs) : (s.setSeq r).pwmCnt = s.pwmCnt := rfl
@[simp] theorem State.setSeq_bus (s : State) (r : SeqRegs) : (s.setSeq r).bus = s.bus := rfl
@[simp] theorem State.setSeq_pending (s : State) (r : SeqRegs) : (s.setSeq r).pending = s.pending := rfl
@[simp] theorem State.setSeq_axis (s : State) (r : SeqRegs) : (s.setSeq r).axis = s.axis := rfl
@[simp] theorem State.setSeq_enabled (s : State) (r : SeqRegs) : (s.setSeq r).enabled = s.enabled := rfl
@[simp] theorem State.setSeq_nanDraw (s : State) (r : SeqRegs) : (s.setSeq r).nanDraw = s.nanDraw := rfl
@[simp] theorem State.setSeq_byteAt (s : State) (r : SeqRegs) : (s.setSeq r).byteAt = s.byteAt := rfl

@[simp] theorem State.setBrk_g (s : State) (r : BrkRegs) : (s.setBrk r).g = s.g := rfl
@[simp] theorem State.setBrk_seq (s : State) (r : BrkRegs) : (s.setBrk r).seq = s.seq := rfl
@[simp] theorem State.setBrk_brk (s : State) (r : BrkRegs) : (s.setBrk r).brk = r := rfl
@[simp] theorem State.setBrk_ax (s : State) (r : BrkRegs) : (s.setBrk r).ax = s.ax := rfl
@[simp] theorem State.setBrk_mem (s : State) (r : BrkRegs) : (s.setBrk r).mem = s.mem := rfl
@[simp] theorem State.setBrk_epoch (s : State) (r : BrkRegs) : (s.setBrk r).epoch = s.epoch := rfl
@[simp] theorem State.setBrk_draws (s : State) (r : BrkRegs) : (s.setBrk r).draws = s.draws := rfl
@[simp] theorem State.setBrk_encCnt (s : State) (r : BrkRegs) : (s.setBrk r).encCnt = s.encCnt := rfl
@[simp] theorem State.setBrk_pwmCnt (s : State) (r : BrkRegs) : (s.setBrk r).pwmCnt = s.pwmCnt := rfl
@[simp] theorem State.setBrk_bus (s : State) (r : BrkRegs) : (s.setBrk r).bus = s.bus := rfl
@[simp] theorem State.setBrk_pending (s : State) (r : BrkRegs) : (s.setBrk r).pending = s.pending := rfl
@[simp] theorem State.setBrk_axis (s : State) (r : BrkRegs) : (s.setBrk r).axis = s.axis := rfl
@[simp] theorem State.setBrk_enabled (s : State) (r : BrkRegs) : (s.setBrk r).enabled = s.enabled := rfl
@[simp] theorem State.setBrk_nanDraw (s : State) (r : BrkRegs) : (s.setBrk r).nanDraw = s.nanDraw := rfl
@[simp] theorem State.setBrk_byteAt (s : State) (r : BrkRegs) : (s.setBrk r).byteAt = s.byteAt := rfl

@[simp] theorem State.setMem_g (s : State) (m : Memory) : (s.setMem m).g = s.g := rfl
@[simp] theorem State.setMem_seq (s : State) (m : Memory) : (s.setMem m).seq = s.seq := rfl
@[simp] theorem State.setMem_brk (s : State) (m : Memory) : (s.setMem m).brk = s.brk := rfl
@[simp] theorem State.setMem_ax (s : State) (m : Memory) : (s.setMem m).ax = s.ax := rfl
@[simp] theorem State.setMem_mem (s : State) (m : Memory) : (s.setMem m).mem = m := rfl
@[simp] theorem State.setMem_epoch (s : State) (m : Memory) : (s.setMem m).epoch = s.epoch := rfl
@[simp] theorem State.setMem_draws (s : State) (m : Memory) : (s.setMem m).draws = s.draws := rfl
@[simp] theorem State.setMem_encCnt (s : State) (m : Memory) : (s.setMem m).encCnt = s.encCnt := rfl
@[simp] theorem State.setMem_pwmCnt (s : State) (m : Memory) : (s.setMem m).pwmCnt = s.pwmCnt := rfl
@[simp] theorem State.setMem_bus (s : State) (m : Memory) : (s.setMem m).bus = s.bus := rfl
@[simp] theorem State.setMem_pending (s : State) (m : Memory) : (s.setMem m).pending = s.pending := rfl
@[simp] theorem State.setMem_axis (s : State) (m : Memory) : (s.setMem m).axis = s.axis := rfl
@[simp] theorem State.setMem_enabled (s : State) (m : Memory) : (s.setMem m).enabled = s.enabled := rfl
@[simp] theorem State.setMem_nanDraw (s : State) (m : Memory) : (s.setMem m).nanDraw = s.nanDraw := rfl

@[simp] theorem State.setBus_g (s : State) (r : BusResponse) : (s.setBus r).g = s.g := rfl
@[simp] theorem State.setBus_seq (s : State) (r : BusResponse) : (s.setBus r).seq = s.seq := rfl
@[simp] theorem State.setBus_brk (s : State) (r : BusResponse) : (s.setBus r).brk = s.brk := rfl
@[simp] theorem State.setBus_ax (s : State) (r : BusResponse) : (s.setBus r).ax = s.ax := rfl
@[simp] theorem State.setBus_mem (s : State) (r : BusResponse) : (s.setBus r).mem = s.mem := rfl
@[simp] theorem State.setBus_epoch (s : State) (r : BusResponse) : (s.setBus r).epoch = s.epoch := rfl
@[simp] theorem State.setBus_draws (s : State) (r : BusResponse) : (s.setBus r).draws = s.draws := rfl
@[simp] theorem State.setBus_encCnt (s : State) (r : BusResponse) : (s.setBus r).encCnt = s.encCnt := rfl
@[simp] theorem State.setBus_pwmCnt (s : State) (r : BusResponse) : (s.setBus r).pwmCnt = s.pwmCnt := rfl
@[simp] theorem State.setBus_bus (s : State) (r : BusResponse) : (s.setBus r).bus = r := rfl
@[simp] theorem State.setBus_pending (s : State) (r : BusResponse) : (s.setBus r).pending = s.pending := rfl
@[simp] theorem State.setBus_axis (s : State) (r : BusResponse) : (s.setBus r).axis = s.axis := rfl
@[simp] theorem State.setBus_enabled (s : State) (r : BusResponse) : (s.setBus r).enabled = s.enabled := rfl
@[simp] theorem State.setBus_nanDraw (s : State) (r : BusResponse) : (s.setBus r).nanDraw = s.nanDraw := rfl
@[simp] theorem State.setBus_byteAt (s : State) (r : BusResponse) : (s.setBus r).byteAt = s.byteAt := rfl

@[simp] theorem State.take_g (s : State) (ds : List Delivery) : (s.take ds).g = s.g := rfl
@[simp] theorem State.take_seq (s : State) (ds : List Delivery) : (s.take ds).seq = s.seq := rfl
@[simp] theorem State.take_brk (s : State) (ds : List Delivery) : (s.take ds).brk = s.brk := rfl
@[simp] theorem State.take_ax (s : State) (ds : List Delivery) : (s.take ds).ax = s.ax := rfl
@[simp] theorem State.take_mem (s : State) (ds : List Delivery) : (s.take ds).mem = s.mem := rfl
@[simp] theorem State.take_epoch (s : State) (ds : List Delivery) : (s.take ds).epoch = s.epoch := rfl
@[simp] theorem State.take_draws (s : State) (ds : List Delivery) : (s.take ds).draws = s.draws + 1 := rfl
@[simp] theorem State.take_encCnt (s : State) (ds : List Delivery) : (s.take ds).encCnt = s.encCnt := rfl
@[simp] theorem State.take_pwmCnt (s : State) (ds : List Delivery) : (s.take ds).pwmCnt = s.pwmCnt := rfl
@[simp] theorem State.take_bus (s : State) (ds : List Delivery) : (s.take ds).bus = s.bus := rfl
@[simp] theorem State.take_pending (s : State) (ds : List Delivery) : (s.take ds).pending = ds := rfl
@[simp] theorem State.take_axis (s : State) (ds : List Delivery) : (s.take ds).axis = s.axis := rfl
@[simp] theorem State.take_enabled (s : State) (ds : List Delivery) : (s.take ds).enabled = s.enabled := rfl
@[simp] theorem State.take_byteAt (s : State) (ds : List Delivery) : (s.take ds).byteAt = s.byteAt := rfl

@[simp] theorem State.accept_g (s : State) (ds : List Delivery) : (s.accept ds).g = s.g := rfl
@[simp] theorem State.accept_seq (s : State) (ds : List Delivery) : (s.accept ds).seq = s.seq := rfl
@[simp] theorem State.accept_brk (s : State) (ds : List Delivery) : (s.accept ds).brk = s.brk := rfl
@[simp] theorem State.accept_ax (s : State) (ds : List Delivery) : (s.accept ds).ax = s.ax := rfl
@[simp] theorem State.accept_mem (s : State) (ds : List Delivery) : (s.accept ds).mem = s.mem := rfl
@[simp] theorem State.accept_epoch (s : State) (ds : List Delivery) : (s.accept ds).epoch = s.epoch := rfl
@[simp] theorem State.accept_draws (s : State) (ds : List Delivery) : (s.accept ds).draws = s.draws + 1 := rfl
@[simp] theorem State.accept_encCnt (s : State) (ds : List Delivery) : (s.accept ds).encCnt = s.encCnt := rfl
@[simp] theorem State.accept_pwmCnt (s : State) (ds : List Delivery) : (s.accept ds).pwmCnt = s.pwmCnt := rfl
@[simp] theorem State.accept_bus (s : State) (ds : List Delivery) : (s.accept ds).bus = busOk := rfl
@[simp] theorem State.accept_pending (s : State) (ds : List Delivery) : (s.accept ds).pending = ds := rfl
@[simp] theorem State.accept_axis (s : State) (ds : List Delivery) : (s.accept ds).axis = s.axis := rfl
@[simp] theorem State.accept_enabled (s : State) (ds : List Delivery) : (s.accept ds).enabled = s.enabled := rfl
@[simp] theorem State.accept_byteAt (s : State) (ds : List Delivery) : (s.accept ds).byteAt = s.byteAt := rfl

/-! ### `ENABLE` -/

@[simp] theorem State.setSamp_enabled (s : State) (a : Axis) (r : SampRegs) : (s.setSamp a r).enabled = s.enabled := by
  funext b; cases a <;> cases b <;> rfl
@[simp] theorem State.setPll_enabled (s : State) (a : Axis) (r : PllRegs) : (s.setPll a r).enabled = s.enabled := by
  funext b; cases a <;> cases b <;> rfl
@[simp] theorem State.setFoc_enabled (s : State) (a : Axis) (r : FocRegs) : (s.setFoc a r).enabled = s.enabled := by
  funext b; cases a <;> cases b <;> rfl
@[simp] theorem State.setPwm_enabled (s : State) (a : Axis) (r : PwmRegs) : (s.setPwm a r).enabled = s.enabled := by
  funext b; cases a <;> cases b <;> rfl
@[simp] theorem State.setAcog_enabled (s : State) (a : Axis) (r : AcogRegs) : (s.setAcog a r).enabled = s.enabled := by
  funext b; cases a <;> cases b <;> rfl
@[simp] theorem State.setStatus_enabled (s : State) (a : Axis) (r : Status) : (s.setStatus a r).enabled = s.enabled := by
  funext b; cases a <;> cases b <;> rfl

/-! ### Reading the registers -/

/-- `ENABLE` is a field of the axis's registers. -/
theorem State.enabled_eq (s : State) (a : Axis) : s.enabled a = (s.axis a).ctl.enable := rfl

/-- Two states with the same registers of both axes have the same pair of axes. -/
theorem State.ax_ext {s t : State} (h : ∀ a, t.axis a = s.axis a) : t.ax = s.ax := PerAxis.ext_get h

/-- A quantifier over the axes, from one axis and the other. -/
theorem Axis.forall_of_self_other {P : Axis → Prop} (a : Axis) (h : P a) (h' : P a.other) : ∀ b, P b := by
  intro b; rcases Axis.eq_or_other a b with rfl | rfl <;> assumption

end Sys2Proof.Machine
end

