-- ==== Sys2Proof/Laws/Acog.lean ====
section
/-!
SUPPORT. The FFT scratch (10_state.md R105) and what `ACOG_COMPRESS` and `ACOG_DECOMPRESS` do, said once.
-/

namespace Sys2Proof.Machine

/-- A supported length fits the map and the scratch (43_anticogging.md R342). -/
theorem le_mapDepth_of_supportedSize {l : Nat} (h : supportedSize l = true) : l ≤ Config.mapDepth := by
  simp only [supportedSize, Bool.and_eq_true, decide_eq_true_eq] at h
  exact h.1.2

@[simp] theorem mapSignal_length (s : State) (a : Axis) (l : Nat) : (mapSignal s a l).length = l := by simp [mapSignal]

theorem scatter_length (l : Nat) (hs : List Harmonic) : (scatter l hs).length = l := by
  suffices h : ∀ z : List Cplx, (hs.foldl (putHarmonic l) z).length = z.length by
    rw [scatter, h, List.length_replicate]
  induction hs with
  | nil => exact fun _ => rfl
  | cons h hs ih =>
    intro z
    rw [List.foldl_cons, ih]
    unfold putHarmonic
    split <;> simp

@[simp] theorem harmSignal_length (s : State) (a : Axis) (l : Nat) : (harmSignal s a l).length = l :=
  scatter_length l _

/-- A filled scratch reads back what it was filled with, whatever stood in it (43_anticogging.md R350, R354). -/
theorem State.scratchSignal_fillScratch {s : State} {a : Axis} {l : Nat} {z : List Cplx} (hz : z.length = l)
    (hl : l ≤ Config.mapDepth) : (s.fillScratch a z).scratchSignal a l = z := by
  apply List.ext_getElem
  · simp [State.scratchSignal, hz]
  · intro i h1 h2
    have hi : i < Config.mapDepth := by omega
    simp [State.scratchSignal, State.scratchAt, State.fillScratch, overwriteScratch, hi, List.getElem?_append_left h2,
      List.getElem?_eq_getElem h2]

/-- `ACOG_COMPRESS` at a supported length (43_anticogging.md R346). -/
theorem execAcogCompress_of_supported {s : State} {a : Axis} (h : supportedSize (s.cprOf a) = true) :
    execAcogCompress a s =
      let z := mapSignal s a (s.cprOf a)
      .next (((s.fillScratch a z).setMem (Memory.setHarmonics s.mem (harmAddr a 0)
        (selectHarmonics (Config.tieRaw s.draws) (s.cprOf a) (fftFwd (s.cprOf a) z)))).setStatus a .ok) := by
  have hc : (s.fillScratch a (mapSignal s a (s.cprOf a))).cprOf a = s.cprOf a := by
    simp [State.cprOf, State.fillScratch]
  have hz := State.scratchSignal_fillScratch (s := s) (a := a) (mapSignal_length s a _) (le_mapDepth_of_supportedSize h)
  simp only [execAcogCompress, h, if_true, compressTable, hc, hz]
  rfl

/-- `ACOG_DECOMPRESS` at a supported length (43_anticogging.md R347). -/
theorem execAcogDecompress_of_supported {s : State} {a : Axis} (h : supportedSize (s.cprOf a) = true) :
    execAcogDecompress a s =
      let z := harmSignal s a (s.cprOf a)
      let s2 := (s.fillScratch a z).setMem (Memory.setWords s.mem (mapAddr a 0)
        (doubleReal s.nanDraw 0 (fftInv (s.cprOf a) z)))
      .next ((s2.setAcog a { (s2.axis a).acog with mapValid := true }).setStatus a .ok) := by
  have hc : (s.fillScratch a (harmSignal s a (s.cprOf a))).cprOf a = s.cprOf a := by
    simp [State.cprOf, State.fillScratch]
  have hz := State.scratchSignal_fillScratch (s := s) (a := a) (harmSignal_length s a _)
    (le_mapDepth_of_supportedSize h)
  simp only [execAcogDecompress, h, if_true, decompressMap, hc, hz]
  rfl

/-- At any other length both commands only answer `E_SIZE` (43_anticogging.md R342). -/
theorem execAcog_of_unsupported {s : State} {a : Axis} (h : supportedSize (s.cprOf a) = false) :
    execAcogCompress a s = .next (s.setStatus a .eSize) ∧ execAcogDecompress a s = .next (s.setStatus a .eSize) := by
  simp [execAcogCompress, execAcogDecompress, h]

end Sys2Proof.Machine
end

