-- ==== Sys2Proof/Laws/Memory.lean ====
section
/-!
SUPPORT. The storage of the map and harmonic windows: reading after a write, and the canonical form.
-/

namespace Sys2Proof.Machine

/-! ### One byte -/

/-- A byte reads as written, every other byte as before. -/
theorem Memory.get?_set (m : Memory) (n k : Nat) (v : Byte) :
    Memory.get? (Memory.set m n v) k = if k = n then some v else Memory.get? m k := by
  induction m with
  | nil => simp only [Memory.set, Memory.get?, eq_comm]
  | cons c m ih =>
    obtain ⟨a, b⟩ := c
    unfold Memory.set
    split_ifs with h1 h2 h3
    · simp only [Memory.get?, eq_comm]; grind
    all_goals simp only [Memory.get?, ih]; grind

/-- The canonical form of a list from its head. -/
theorem Memory.wf_cons (c : Host.Cell) (m : Memory) :
    Memory.wf (c :: m) = true ↔ (∀ d ∈ m.head?, c.1 < d.1) ∧ Memory.wf m = true := by
  cases m <;> simp [Memory.wf]

theorem Memory.head?_set (m : Memory) (n : Nat) (v : Byte) :
    ∀ d ∈ (Memory.set m n v).head?, d.1 = n ∨ ∃ e ∈ m.head?, e.1 = d.1 := by
  cases m with
  | nil => simp [Memory.set]
  | cons c m => unfold Memory.set; split_ifs <;> simp_all

/-- Writing a byte keeps the addresses rising. -/
theorem Memory.wf_set {m : Memory} (n : Nat) (v : Byte) (h : Memory.wf m = true) :
    Memory.wf (Memory.set m n v) = true := by
  induction m with
  | nil => rfl
  | cons c m ih =>
    obtain ⟨hd, hm⟩ := (Memory.wf_cons c m).mp h
    unfold Memory.set
    split_ifs with h1 h2
    · exact (Memory.wf_cons _ _).mpr ⟨by simpa using h1, h⟩
    · exact (Memory.wf_cons _ _).mpr ⟨by simpa [h2] using hd, hm⟩
    · refine (Memory.wf_cons _ _).mpr ⟨fun d hd' => ?_, ih hm⟩
      rcases Memory.head?_set m n v d hd' with h' | ⟨e, he, h'⟩
      · simp only [h']; omega
      · simpa [h'] using hd e he

/-- A byte write lists no other address. -/
theorem Memory.mem_set {m : Memory} {n : Nat} {v : Byte} {c : Host.Cell} (h : c ∈ Memory.set m n v) :
    c.1 = n ∨ c ∈ m := by
  induction m with
  | nil => simp_all [Memory.set]
  | cons d m ih => unfold Memory.set at h; split_ifs at h <;> simp_all <;> grind

/-! ### One word -/

/-- A word reads as written byte by byte, every other byte as before. -/
theorem Memory.get?_setWord (m : Memory) (n k : Nat) (v : W32) :
    Memory.get? (Memory.setWord m n v) k =
      if n ≤ k ∧ k < n + 4 then some (v.extractLsb' (8 * (k - n)) 8) else Memory.get? m k := by
  simp only [Memory.setWord, Memory.get?_set]
  by_cases h : n ≤ k ∧ k < n + 4
  · rw [if_pos h]
    obtain ⟨d, rfl⟩ : ∃ d, k = n + d := ⟨k - n, by omega⟩
    have hd : d = 0 ∨ d = 1 ∨ d = 2 ∨ d = 3 := by omega
    rcases hd with rfl | rfl | rfl | rfl <;> simp
  · rw [if_neg h, if_neg (by omega), if_neg (by omega), if_neg (by omega), if_neg (by omega)]

theorem Memory.wf_setWord {m : Memory} (n : Nat) (v : W32) (h : Memory.wf m = true) :
    Memory.wf (Memory.setWord m n v) = true :=
  Memory.wf_set _ _ (Memory.wf_set _ _ (Memory.wf_set _ _ (Memory.wf_set _ _ h)))

theorem Memory.mem_setWord {m : Memory} {n : Nat} {v : W32} {c : Host.Cell} (h : c ∈ Memory.setWord m n v) :
    (n ≤ c.1 ∧ c.1 < n + 4) ∨ c ∈ m := by
  rcases Memory.mem_set h with h | h
  · omega
  rcases Memory.mem_set h with h | h
  · omega
  rcases Memory.mem_set h with h | h
  · omega
  rcases Memory.mem_set h with h | h
  · omega
  · exact .inr h

/-- The four bytes of a word put together again. -/
theorem word_of_bytes (v : W32) :
    v.extractLsb' 24 8 ++ (v.extractLsb' 16 8 ++ (v.extractLsb' 8 8 ++ v.extractLsb' 0 8)) = v := by
  apply BitVec.eq_of_getLsbD_eq
  intro i hi
  simp only [BitVec.getLsbD_append, BitVec.getLsbD_extractLsb']
  split_ifs with h1 h2 h3
  · simp [h3]
  · rw [show 8 + (i - 8) = i by omega]; simp; omega
  · rw [show 16 + (i - (8 + 8)) = i by omega]; simp; omega
  · rw [show 24 + (i - (8 + (8 + 8))) = i by omega]; simp; omega

/-! ### Runs of words -/

theorem Memory.get?_setWords (m : Memory) (n k : Nat) (vs : List W32) :
    Memory.get? (Memory.setWords m n vs) k =
      if n ≤ k ∧ k < n + 4 * vs.length then
        some ((vs.getD ((k - n) / 4) 0#32).extractLsb' (8 * ((k - n) % 4)) 8)
      else Memory.get? m k := by
  induction vs generalizing m n with
  | nil => simp only [Memory.setWords, List.length_nil]; rw [if_neg (by omega)]
  | cons v vs ih =>
    simp only [Memory.setWords, ih, Memory.get?_setWord, List.length_cons]
    by_cases h1 : n + 4 ≤ k ∧ k < n + 4 + 4 * vs.length
    · rw [if_pos h1, if_pos (by omega), show k - n = (k - (n + 4)) + 4 by omega, Nat.add_div_right _ (by omega),
        Nat.add_mod_right, List.getD_cons_succ]
    · by_cases h2 : n ≤ k ∧ k < n + 4
      · rw [if_neg h1, if_pos h2, if_pos (by omega), Nat.div_eq_of_lt (by omega), Nat.mod_eq_of_lt (by omega),
          List.getD_cons_zero]
      · rw [if_neg h1, if_neg h2, if_neg (by omega)]

theorem Memory.wf_setWords {m : Memory} (n : Nat) (vs : List W32) (h : Memory.wf m = true) :
    Memory.wf (Memory.setWords m n vs) = true := by
  induction vs generalizing m n with
  | nil => exact h
  | cons v vs ih => exact ih _ (Memory.wf_setWord n v h)

theorem Memory.mem_setWords {m : Memory} {n : Nat} {vs : List W32} {c : Host.Cell} (h : c ∈ Memory.setWords m n vs) :
    (n ≤ c.1 ∧ c.1 < n + 4 * vs.length) ∨ c ∈ m := by
  induction vs generalizing m n with
  | nil => exact .inr h
  | cons v vs ih =>
    rcases ih h with h | h
    · simp only [List.length_cons]; omega
    · rcases Memory.mem_setWord h with h | h
      · simp only [List.length_cons]; omega
      · exact .inr h

/-! ### Harmonic entries -/

/-- The word of a harmonic tuple: `INDEX`, `RE`, `IM`. -/
def Harmonic.word (h : Harmonic) : Nat → W32
  | 0 => h.index
  | 1 => h.re
  | _ => h.im

theorem Memory.get?_setHarmonics (m : Memory) (n k : Nat) (hs : List Harmonic) :
    Memory.get? (Memory.setHarmonics m n hs) k =
      if n ≤ k ∧ k < n + 16 * hs.length ∧ (k - n) % 16 < 12 then
        some (((hs.getD ((k - n) / 16) ⟨0#32, 0#32, 0#32⟩).word ((k - n) % 16 / 4)).extractLsb' (8 * ((k - n) % 4)) 8)
      else Memory.get? m k := by
  induction hs generalizing m n with
  | nil => simp only [Memory.setHarmonics, List.length_nil]; rw [if_neg (by omega)]
  | cons h hs ih =>
    simp only [Memory.setHarmonics, ih, Memory.get?_setWords, List.length_cons, List.length_nil]
    by_cases h1 : n + 16 ≤ k ∧ k < n + 16 + 16 * hs.length ∧ (k - (n + 16)) % 16 < 12
    · rw [if_pos h1, if_pos (by omega), show k - n = (k - (n + 16)) + 16 by omega, Nat.add_div_right _ (by omega),
        Nat.add_mod_right, List.getD_cons_succ]
      congr 3; omega
    · by_cases h2 : n ≤ k ∧ k < n + 12
      · rw [if_neg h1, if_pos (by omega), if_pos (by omega), Nat.div_eq_of_lt (a := k - n) (b := 16) (by omega),
          Nat.mod_eq_of_lt (a := k - n) (b := 16) (by omega), List.getD_cons_zero]
        have hd : (k - n) / 4 = 0 ∨ (k - n) / 4 = 1 ∨ (k - n) / 4 = 2 := by omega
        rcases hd with hd | hd | hd <;> simp [hd, Harmonic.word]
      · rw [if_neg h1, if_neg (by omega), if_neg (by omega)]

theorem Memory.wf_setHarmonics {m : Memory} (n : Nat) (hs : List Harmonic) (h : Memory.wf m = true) :
    Memory.wf (Memory.setHarmonics m n hs) = true := by
  induction hs generalizing m n with
  | nil => exact h
  | cons v vs ih => exact ih _ (Memory.wf_setWords n _ h)

theorem Memory.mem_setHarmonics {m : Memory} {n : Nat} {hs : List Harmonic} {c : Host.Cell}
    (h : c ∈ Memory.setHarmonics m n hs) :
    (∃ j, j < hs.length ∧ n + 16 * j ≤ c.1 ∧ c.1 < n + 16 * j + 12) ∨ c ∈ m := by
  induction hs generalizing m n with
  | nil => exact .inr h
  | cons v vs ih =>
    rcases ih h with ⟨j, hj, h⟩ | h
    · exact .inl ⟨j + 1, by simpa using hj, by omega, by omega⟩
    · rcases Memory.mem_setWords h with h | h
      · exact .inl ⟨0, by simp, by simpa using h⟩
      · exact .inr h

/-! ### The bytes and words of a state -/

/-- The word at an address depends on its four bytes only. -/
theorem State.wordAt_congr {s t : State} {n : Nat} (h : ∀ k, n ≤ k → k < n + 4 → t.byteAt k = s.byteAt k) :
    t.wordAt n = s.wordAt n := by
  unfold State.wordAt
  rw [h n, h (n + 1), h (n + 2), h (n + 3)] <;> omega

/-- A word written reads back (20_memory.md R137). -/
theorem State.wordAt_setWord (s : State) (n : Nat) (v : W32) :
    (s.setMem (Memory.setWord s.mem n v)).wordAt n = v := by
  simp only [State.wordAt, State.byteAt, State.setMem_mem, Memory.get?_setWord]
  rw [if_pos (by omega), if_pos (by omega), if_pos (by omega), if_pos (by omega)]
  simpa using word_of_bytes v

/-- A word write leaves every byte outside the word alone. -/
theorem State.byteAt_setWord (s : State) (n k : Nat) (v : W32) (h : ¬(n ≤ k ∧ k < n + 4)) :
    (s.setMem (Memory.setWord s.mem n v)).byteAt k = s.byteAt k := by
  simp only [State.byteAt, State.setMem_mem, State.setMem_epoch, Memory.get?_setWord, if_neg h]

/-- Each word of a run reads back. -/
theorem State.wordAt_setWords (s : State) (n i : Nat) (vs : List W32) (hi : i < vs.length) :
    (s.setMem (Memory.setWords s.mem n vs)).wordAt (n + 4 * i) = vs.getD i 0#32 := by
  simp only [State.wordAt, State.byteAt, State.setMem_mem, Memory.get?_setWords]
  rw [if_pos (by omega), if_pos (by omega), if_pos (by omega), if_pos (by omega)]
  have e0 : (n + 4 * i - n) / 4 = i ∧ (n + 4 * i - n) % 4 = 0 := by omega
  have e1 : (n + 4 * i + 1 - n) / 4 = i ∧ (n + 4 * i + 1 - n) % 4 = 1 := by omega
  have e2 : (n + 4 * i + 2 - n) / 4 = i ∧ (n + 4 * i + 2 - n) % 4 = 2 := by omega
  have e3 : (n + 4 * i + 3 - n) / 4 = i ∧ (n + 4 * i + 3 - n) % 4 = 3 := by omega
  simp only [e0, e1, e2, e3, Option.getD_some]
  exact word_of_bytes _

/-- A run of words leaves every byte outside it alone. -/
theorem State.byteAt_setWords (s : State) (n k : Nat) (vs : List W32) (h : ¬(n ≤ k ∧ k < n + 4 * vs.length)) :
    (s.setMem (Memory.setWords s.mem n vs)).byteAt k = s.byteAt k := by
  simp only [State.byteAt, State.setMem_mem, State.setMem_epoch, Memory.get?_setWords, if_neg h]

/-- Each field of a run of harmonic entries reads back. -/
theorem State.wordAt_setHarmonics (s : State) (n j f : Nat) (hs : List Harmonic) (hj : j < hs.length) (hf : f < 3) :
    (s.setMem (Memory.setHarmonics s.mem n hs)).wordAt (n + 16 * j + 4 * f) =
      (hs.getD j ⟨0#32, 0#32, 0#32⟩).word f := by
  simp only [State.wordAt, State.byteAt, State.setMem_mem, Memory.get?_setHarmonics]
  rw [if_pos (by omega), if_pos (by omega), if_pos (by omega), if_pos (by omega)]
  have e (c : Nat) (hc : c < 4) : (n + 16 * j + 4 * f + c - n) / 16 = j ∧
      (n + 16 * j + 4 * f + c - n) % 16 / 4 = f ∧ (n + 16 * j + 4 * f + c - n) % 4 = c := by omega
  have e0 := e 0 (by omega)
  rw [Nat.add_zero] at e0
  simp only [e0, e 1 (by omega), e 2 (by omega), e 3 (by omega), Option.getD_some]
  exact word_of_bytes _

/-- A run of harmonic entries leaves every byte outside their fields alone. -/
theorem State.byteAt_setHarmonics (s : State) (n k : Nat) (hs : List Harmonic)
    (h : ¬(n ≤ k ∧ k < n + 16 * hs.length ∧ (k - n) % 16 < 12)) :
    (s.setMem (Memory.setHarmonics s.mem n hs)).byteAt k = s.byteAt k := by
  simp only [State.byteAt, State.setMem_mem, State.setMem_epoch, Memory.get?_setHarmonics, if_neg h]

/-- The storage after reset has the canonical form. -/
theorem reset_mem_wf : Memory.wf State.reset.mem = true := rfl

end Sys2Proof.Machine
end

