-- ==== Sys2Proof/Laws/Float.lean ====
section
/-!
SUPPORT. What each binary32 primitive can answer (00_scope.md R16 to R26): its NaNs, its sign and magnitude, and that a quiet
comparison does not show which NaN it was given.
-/

namespace Sys2Proof.Machine

/-! ### Packing and rounding -/

theorem roundMag_le (n d : Nat) : roundMag n d ≤ 0x7F800000 := Nat.min_le_right _ _

@[simp] theorem fMag_fPack {neg : Bool} {m : Nat} (h : m < 0x80000000) : fMag (fPack neg m) = m := by
  cases neg <;> simp [fMag, fPack, BitVec.toNat_ofNat] <;> omega

@[simp] theorem fSign_fPack {neg : Bool} {m : Nat} (h : m < 0x80000000) : fSign (fPack neg m) = neg := by
  cases neg <;> simp [fSign, fPack, BitVec.msb_eq_decide, BitVec.toNat_ofNat] <;> omega

theorem fMag_lt (x : F32) : fMag x < 0x80000000 := Nat.mod_lt _ (by decide)

/-- A value is its sign and its magnitude field (00_scope.md R16). -/
theorem fPack_fSign_fMag (x : F32) : fPack (fSign x) (fMag x) = x := by
  apply BitVec.eq_of_toNat_eq
  have hx := x.isLt
  simp only [fPack, fSign, fMag, BitVec.msb_eq_decide, BitVec.toNat_ofNat]
  by_cases h : 2 ^ (32 - 1) ≤ x.toNat <;> simp only [h, decide_true, decide_false] <;> norm_num at * <;> omega

/-- Two values with the same sign and magnitude field are equal. -/
theorem f32_ext {x y : F32} (hs : fSign x = fSign y) (hm : fMag x = fMag y) : x = y := by
  rw [← fPack_fSign_fMag x, ← fPack_fSign_fMag y, hs, hm]

@[simp] theorem fMag_fneg (x : F32) : fMag (fneg x) = fMag x := by
  have hx := x.isLt
  have h : (fneg x).toNat % 2 ^ 31 = x.toNat % 2 ^ 31 := by
    rw [fneg, BitVec.toNat_xor]
    apply Nat.eq_of_testBit_eq
    intro i
    rw [Nat.testBit_mod_two_pow, Nat.testBit_mod_two_pow, Nat.testBit_xor]
    by_cases hi : i < 31
    · have : (0x80000000#32 : BitVec 32).toNat = 2 ^ 31 := rfl
      rw [this, Nat.testBit_two_pow_of_ne (by omega)]; simp
    · simp [hi]
  simpa [fMag] using h

@[simp] theorem fSign_fneg (x : F32) : fSign (fneg x) = !fSign x := by
  simp only [fSign, fneg, BitVec.msb_xor]
  have : (0x80000000#32 : BitVec 32).msb = true := by decide
  rw [this]; simp

@[simp] theorem fUnits_fneg (x : F32) : fUnits (fneg x) = fUnits x := by simp [fUnits]

@[simp] theorem isNaN_fneg (x : F32) : isNaN (fneg x) = isNaN x := by simp [isNaN]

@[simp] theorem isFinite_fneg (x : F32) : isFinite (fneg x) = isFinite x := by simp [isFinite]

@[simp] theorem isInf_fneg (x : F32) : isInf (fneg x) = isInf x := by simp [isInf]

@[simp] theorem fInt_fneg (x : F32) : fInt (fneg x) = -fInt x := by cases h : fSign x <;> simp [fInt, h]

/-! ### NaNs -/

@[simp] theorem isNaN_asNaN (r : F32) : isNaN (asNaN r) = true := by
  by_cases h : isNaN r = true
  · simp [asNaN, h]
  · rw [asNaN, if_neg h]; decide

/-- Every free draw is a NaN (00_scope.md R24). -/
@[simp] theorem isNaN_nanDraw (s : State) (site : Nat) : isNaN (s.nanDraw site) = true := isNaN_asNaN _

theorem isNaN_of_isFinite {x : F32} (h : isFinite x = true) : isNaN x = false := by
  simp only [isFinite, isNaN, decide_eq_true_eq, decide_eq_false_iff_not] at *; omega

theorem isInf_of_isFinite {x : F32} (h : isFinite x = true) : isInf x = false := by
  simp only [isFinite, isInf, decide_eq_true_eq, decide_eq_false_iff_not] at *; omega

theorem isFinite_or (x : F32) : isFinite x = true ∨ isInf x = true ∨ isNaN x = true := by
  simp only [isFinite, isInf, isNaN, decide_eq_true_eq]; omega

/-- `0.0`, `1.0` and their like are not NaNs. -/
@[simp] theorem isNaN_fZero : isNaN fZero = false := by decide
@[simp] theorem isNaN_fOne : isNaN fOne = false := by decide
@[simp] theorem isFinite_fZero : isFinite fZero = true := by decide
@[simp] theorem isFinite_fOne : isFinite fOne = true := by decide
@[simp] theorem isFinite_fTwo : isFinite fTwo = true := by decide

/-- A quiet comparison with a NaN is false (00_scope.md R20). -/
theorem flt_of_isNaN {x y : F32} (h : isNaN x = true ∨ isNaN y = true) : flt x y = false := by
  rcases h with h | h <;> simp [flt, h]

theorem fle_of_isNaN {x y : F32} (h : isNaN x = true ∨ isNaN y = true) : fle x y = false := by
  rcases h with h | h <;> simp [fle, h]

/-- A sum with a NaN is a NaN. -/
theorem isNaN_fadd {nan x y : F32} (hn : isNaN nan = true) (h : isNaN x = true ∨ isNaN y = true) :
    isNaN (fadd nan x y) = true := by
  rcases h with h | h <;> simp [fadd, h, hn]

theorem isNaN_fsub {nan x y : F32} (hn : isNaN nan = true) (h : isNaN x = true ∨ isNaN y = true) :
    isNaN (fsub nan x y) = true := isNaN_fadd hn (by simpa using h)

theorem isNaN_fmul {nan x y : F32} (hn : isNaN nan = true) (h : isNaN x = true ∨ isNaN y = true) :
    isNaN (fmul nan x y) = true := by
  rcases h with h | h <;> simp [fmul, h, hn]

/-! ### What the draw of an operation can change -/

/-- A sum is its draw, or the same for every draw. -/
theorem fadd_draw (x y : F32) : (∀ n, fadd n x y = n) ∨ ∀ n n', fadd n x y = fadd n' x y := by
  unfold fadd
  by_cases h1 : (isNaN x || isNaN y) = true
  · exact .inl fun n => by rw [if_pos h1]
  by_cases h2 : isInf x = true
  · by_cases h3 : (isInf y && fSign x != fSign y) = true
    · exact .inl fun n => by rw [if_neg h1, if_pos h2, if_pos h3]
    · exact .inr fun n n' => by rw [if_neg h1, if_pos h2, if_neg h3, if_neg h1, if_pos h2, if_neg h3]
  · exact .inr fun n n' => by rw [if_neg h1, if_neg h2, if_neg h1, if_neg h2]

/-- A product is its draw, or the same for every draw. -/
theorem fmul_draw (x y : F32) : (∀ n, fmul n x y = n) ∨ ∀ n n', fmul n x y = fmul n' x y := by
  unfold fmul
  by_cases h1 : (isNaN x || isNaN y) = true
  · exact .inl fun n => by rw [if_pos h1]
  by_cases h2 : ((isInf x && fMag y == 0) || (fMag x == 0 && isInf y)) = true
  · exact .inl fun n => by rw [if_neg h1, if_pos h2]
  · exact .inr fun n n' => by rw [if_neg h1, if_neg h2, if_neg h1, if_neg h2]

/-- A quotient is its draw, or the same for every draw. -/
theorem fdiv_draw (x y : F32) : (∀ n, fdiv n x y = n) ∨ ∀ n n', fdiv n x y = fdiv n' x y := by
  unfold fdiv
  by_cases h1 : (isNaN x || isNaN y) = true
  · exact .inl fun n => by rw [if_pos h1]
  by_cases h2 : ((isInf x && isInf y) || (fMag x == 0 && fMag y == 0)) = true
  · exact .inl fun n => by rw [if_neg h1, if_pos h2]
  · exact .inr fun n n' => by rw [if_neg h1, if_neg h2, if_neg h1, if_neg h2]

/-- Of finite operands a product is finite or infinite, and the draw does not show. -/
theorem fmul_of_isFinite {x y : F32} (hx : isFinite x = true) (hy : isFinite y = true) (nan : F32) :
    fmul nan x y = fPack (fSign x != fSign y) (roundMag (fUnits x * fUnits y) (2 ^ 149)) := by
  simp [fmul, isNaN_of_isFinite hx, isNaN_of_isFinite hy, isInf_of_isFinite hx, isInf_of_isFinite hy]

/-- Of a finite dividend and a finite divisor that is not zero, a quotient is the rounded one. -/
theorem fdiv_of_isFinite {x y : F32} (hx : isFinite x = true) (hy : isFinite y = true) (h0 : fMag y ≠ 0) (nan : F32) :
    fdiv nan x y = fPack (fSign x != fSign y) (roundMag (fUnits x * 2 ^ 149) (fUnits y)) := by
  simp [fdiv, isNaN_of_isFinite hx, isNaN_of_isFinite hy, isInf_of_isFinite hx, isInf_of_isFinite hy, h0]

/-- Of finite operands a sum is the rounded one, or a zero. -/
theorem fadd_of_isFinite {x y : F32} (hx : isFinite x = true) (hy : isFinite y = true) (nan : F32) :
    fadd nan x y =
      if fInt x + fInt y = 0 then fPack (fSign x && fSign y) 0 else fOfUnits (fInt x + fInt y) := by
  simp [fadd, isNaN_of_isFinite hx, isNaN_of_isFinite hy, isInf_of_isFinite hx, isInf_of_isFinite hy]

/-- The stability check does not show which NaN its product drew (41_pll.md R269). -/
theorem pllStable_draw {n n' : F32} (hn : isNaN n = true) (hn' : isNaN n' = true) (t kp : F32) :
    pllStable n t kp = pllStable n' t kp := by
  rcases fmul_draw t kp with h | h
  · rw [pllStable, pllStable, h, h, flt_of_isNaN (.inl hn), flt_of_isNaN (.inl hn')]
  · rw [pllStable, pllStable, h n n']

/-- `PLL_UNSTABLE` does not depend on the draws (10_state.md R72). -/
theorem pllUnstable_eq (s : State) (a : Axis) (n : F32) (hn : isNaN n = true) :
    pllUnstable s a = !pllStable n s.g.t (s.axis a).pll.kp := by
  rw [pllUnstable, pllStable_draw (isNaN_nanDraw s 110) hn]

end Sys2Proof.Machine
end

