-- ==== Sys2Proof/Laws/Ops.lean ====
section
/-!
SUPPORT. What each shared operation of Machine/Ops.lean can do, said once: the brake aggregator, the disable, the fault.
-/

namespace Sys2Proof.Machine

/-! ### Updates that change nothing, and updates of one thing twice -/

@[simp] theorem State.setBrk_brk_self (s : State) : s.setBrk s.brk = s := rfl

@[simp] theorem State.setBrk_setBrk (s : State) (r r' : BrkRegs) : (s.setBrk r).setBrk r' = s.setBrk r' := rfl

/-- A state that differs from another in `BRK` only is that other with its own `BRK`. -/
theorem State.eq_setBrk {t u : State} {r : BrkRegs} (h : t = u.setBrk r) : t = u.setBrk t.brk := by
  subst h; rfl

@[simp] theorem State.setSeq_seq_self (s : State) : s.setSeq s.seq = s := rfl

@[simp] theorem State.setAxis_own (s : State) (a : Axis) : s.setAxis a (s.axis a) = s := by
  simp only [State.setAxis, State.axis, PerAxis.set_get]

@[simp] theorem State.setAxis_setAxis (s : State) (a : Axis) (r r' : AxisRegs) :
    (s.setAxis a r).setAxis a r' = s.setAxis a r' := by simp only [State.setAxis, PerAxis.set_set]

@[simp] theorem State.setCtl_setCtl (s : State) (a : Axis) (r r' : CtlRegs) :
    (s.setCtl a r).setCtl a r' = s.setCtl a r' := by
  simp only [State.setCtl, State.setAxis_axis_self, State.setAxis_setAxis]

theorem State.setBrk_setCtl (s : State) (a : Axis) (r : BrkRegs) (c : CtlRegs) :
    (s.setBrk r).setCtl a c = (s.setCtl a c).setBrk r := rfl

theorem State.setSeq_setCtl (s : State) (a : Axis) (r : SeqRegs) (c : CtlRegs) :
    (s.setSeq r).setCtl a c = (s.setCtl a c).setSeq r := rfl

/-- An axis that is disabled stays as it is when disabled. -/
theorem State.setCtl_enable_false {s : State} {a : Axis} (h : s.enabled a = false) :
    s.setCtl a { (s.axis a).ctl with enable := false } = s := by
  have : ({ (s.axis a).ctl with enable := false } : CtlRegs) = (s.axis a).ctl := by
    rw [← h]; rfl
  rw [this]; exact State.setAxis_own s a

/-! ### The brake aggregator -/

/-- The aggregate does not read `BRK`. -/
@[simp] theorem brakeDutyOf_setBrk (s : State) (r : BrkRegs) : brakeDutyOf (s.setBrk r) = brakeDutyOf s := rfl

/-- The aggregate reads of each axis its `ENABLE` and its `IBUS`, the configuration and the draws. -/
theorem brakeDutyOf_congr {s t : State} (hd : t.draws = s.draws) (hg : t.g = s.g)
    (h0 : t.ibusOf .ax0 = s.ibusOf .ax0) (h1 : t.ibusOf .ax1 = s.ibusOf .ax1) : brakeDutyOf t = brakeDutyOf s := by
  unfold brakeDutyOf State.nanDraw
  rw [hd, hg, h0, h1]

/-- `brk_try` changes nothing but `BRK`. -/
theorem brkTry_eq (s : State) : brkTry s = s.setBrk (brkTry s).brk := by
  unfold brkTry; split_ifs <;> rfl

/-- What `brk_try` does, from one axis and the other (42_foc.md R320). -/
theorem brkTry_brk (s : State) (a : Axis) :
    (brkTry s).brk =
      if s.enabled a = false ∧ s.enabled a.other = false then { duty := fZero, reported := ⟨false, false⟩ }
      else if (s.enabled a = false ∨ s.brk.reported.get a = true) ∧
          (s.enabled a.other = false ∨ s.brk.reported.get a.other = true) then
        { duty := brakeDutyOf s, reported := ⟨false, false⟩ }
      else s.brk := by
  unfold brkTry
  cases a <;> cases h0 : s.enabled .ax0 <;> cases h1 : s.enabled .ax1 <;> cases h2 : s.brk.reported.ax0 <;>
    cases h3 : s.brk.reported.ax1 <;> simp [Axis.other, PerAxis.get, h0, h1, h2, h3]

/-- A report changes nothing but `BRK`. -/
theorem brkReport_eq (a : Axis) (s : State) : brkReport a s = s.setBrk (brkReport a s).brk := by
  conv_lhs => rw [brkReport, brkTry_eq]
  rfl

/-- A report of an armed axis (42_foc.md R320). -/
theorem brkReport_brk {a : Axis} {s : State} (h : s.enabled a = true) :
    (brkReport a s).brk =
      if s.enabled a.other = false ∨ s.brk.reported.get a.other = true then
        { duty := brakeDutyOf s, reported := ⟨false, false⟩ }
      else { duty := s.brk.duty, reported := s.brk.reported.set a true } := by
  rw [brkReport, brkTry_brk _ a]
  simp [h]

/-! ### Disable -/

/-- A disable changes nothing but `ENABLE` and `BRK`. -/
theorem disableAxis_eq (a : Axis) (s : State) :
    disableAxis a s =
      (s.setCtl a { (s.axis a).ctl with enable := false }).setBrk (disableAxis a s).brk := by
  unfold disableAxis
  cases h : s.enabled a
  · simp [State.setCtl_enable_false h]
  · simp only [if_true]
    conv_lhs => rw [onDisable, brkTry_eq]
    rfl

/-- The disable of a disabled axis leaves `BRK` alone. -/
theorem disableAxis_brk_of_disabled {a : Axis} {s : State} (h : s.enabled a = false) :
    (disableAxis a s).brk = s.brk := by simp [disableAxis, h]

/-- The disable of an armed axis (44_system.md R384, 42_foc.md R320). -/
theorem disableAxis_brk_of_enabled {a : Axis} {s : State} (h : s.enabled a = true) :
    (disableAxis a s).brk =
      if s.enabled a.other = false then { duty := fZero, reported := ⟨false, false⟩ }
      else if s.brk.reported.get a.other = true then
        { duty := brakeDutyOf (s.setCtl a { (s.axis a).ctl with enable := false }), reported := ⟨false, false⟩ }
      else { duty := s.brk.duty, reported := s.brk.reported.set a false } := by
  rw [disableAxis, if_pos h, onDisable, brkTry_brk _ a]
  simp [State.enabled_eq]
  cases (s.axis a.other).ctl.enable <;> simp

/-! ### Fault -/

/-- What the fault operation does to one axis: the bit, `ENABLE` and `BRK` (60_exceptions.md R405). -/
theorem faultAxis_eq (e : BlockError) (a : Axis) (s : State) :
    faultAxis e a s =
      (s.setCtl a { (s.axis a).ctl with enable := false, error := (s.axis a).ctl.error ||| e.mask }).setBrk
        (faultAxis e a s).brk := by
  conv_lhs => rw [faultAxis, disableAxis_eq, orError]
  simp only [State.setCtl_setCtl, State.setCtl_axis_self]
  rfl

/-- The fault of a disabled axis leaves `BRK` alone. -/
theorem faultAxis_brk_of_disabled {e : BlockError} {a : Axis} {s : State} (h : s.enabled a = false) :
    (faultAxis e a s).brk = s.brk := by
  rw [faultAxis, disableAxis_brk_of_disabled] <;> simp_all [orError, State.enabled_eq]

/-- The fault of an armed axis disables it (60_exceptions.md R405, 44_system.md R384). -/
theorem faultAxis_brk_of_enabled {e : BlockError} {a : Axis} {s : State} (h : s.enabled a = true) :
    (faultAxis e a s).brk =
      if s.enabled a.other = false then { duty := fZero, reported := ⟨false, false⟩ }
      else if s.brk.reported.get a.other = true then
        { duty := brakeDutyOf (s.setCtl a { (s.axis a).ctl with enable := false }), reported := ⟨false, false⟩ }
      else { duty := s.brk.duty, reported := s.brk.reported.set a false } := by
  have h' : (orError a e.mask s).enabled a = true := by simpa [orError, State.enabled_eq] using h
  have ho : (orError a e.mask s).enabled a.other = s.enabled a.other := by simp [orError, State.enabled_eq]
  rw [faultAxis, disableAxis_brk_of_enabled h', ho]
  have hb : brakeDutyOf ((orError a e.mask s).setCtl a { ((orError a e.mask s).axis a).ctl with enable := false }) =
      brakeDutyOf (s.setCtl a { (s.axis a).ctl with enable := false }) := by
    apply brakeDutyOf_congr <;> cases a <;> rfl
  rw [hb]
  rfl

theorem fault_one (a : Axis) (e : BlockError) (s : State) : fault [a] e s = faultAxis e a s := rfl

theorem fault_both (e : BlockError) (s : State) :
    fault [.ax0, .ax1] e s = faultAxis e .ax1 (faultAxis e .ax0 s) := rfl

/-- What the fault operation does to both axes (60_exceptions.md R405). -/
theorem fault_both_eq (e : BlockError) (s : State) :
    fault [.ax0, .ax1] e s =
      ((s.setCtl .ax0
          { (s.axis .ax0).ctl with enable := false, error := (s.axis .ax0).ctl.error ||| e.mask }).setCtl .ax1
          { (s.axis .ax1).ctl with enable := false, error := (s.axis .ax1).ctl.error ||| e.mask }).setBrk
        (fault [.ax0, .ax1] e s).brk := by
  rw [fault_both]
  have h := faultAxis_eq e .ax1 (faultAxis e .ax0 s)
  generalize faultAxis e .ax1 (faultAxis e .ax0 s) = t at h ⊢
  rw [faultAxis_eq e .ax0 s] at h
  exact h

end Sys2Proof.Machine
end

