-- ==== Sys2Proof/Laws/Bus.lean ====
section
/-!
SUPPORT. The address map forwards and backwards, and what one step is for each kind of delivery.
-/

namespace Sys2Proof.Machine

/-! ### The address map (20_memory.md R131 to R136, R147) -/

theorem locate_global {k : BitVec 20} (h : k.toNat < 0x100) : locate k = globalLoc k.toNat := by
  simp only [locate, h, if_true]

theorem locate_axis {k : BitVec 20} {a : Axis} {off : Nat} (h : k.toNat = axisAddr a off) (ho : off < 0x100) :
    locate k = axisLoc a off := by
  cases a <;> simp only [axisAddr, Axis.toNat] at h
  · simp (disch := omega) only [locate, if_neg, if_pos, show k.toNat - 0x100 = off by omega]
  · simp (disch := omega) only [locate, if_neg, if_pos, show k.toNat - 0x200 = off by omega]

theorem locate_harm {k : BitVec 20} {a : Axis} {off : Nat} (h : k.toNat = 0x400 + 0x200 * a.toNat + off)
    (ho : off < 0x200) : locate k = if off / 16 < 8 ∧ off % 16 < 12 then .storage k.toNat else .hole := by
  cases a <;> simp only [Axis.toNat] at h
  · simp (disch := omega) only [locate, if_neg, if_pos, show k.toNat - 0x400 = off by omega]
    rw [h]; rfl
  · simp (disch := omega) only [locate, if_neg, if_pos, show k.toNat - 0x600 = off by omega]
    rw [h]; rfl

theorem locate_map {k : BitVec 20} {a : Axis} {off : Nat} (h : k.toNat = 0x10000 + 0x8000 * a.toNat + off)
    (ho : off < 0x8000) : locate k = .storage k.toNat := by
  have hd : off / 4 < Config.mapDepth := by simp only [Config.mapDepth]; omega
  cases a <;> simp only [Axis.toNat] at h
  · simp (disch := omega) only [locate, if_neg, if_pos, show k.toNat - 0x10000 = off by omega, mapLoc, hd]
    rw [h]; rfl
  · simp (disch := omega) only [locate, if_neg, if_pos, show k.toNat - 0x18000 = off by omega, mapLoc, hd]
    rw [h]; rfl

/-- A global address names a global register, the global command port or a hole. -/
theorem globalLoc_cases (n : Nat) :
    (globalLoc n = .gcmd ∧ n = 0x04) ∨ (∃ r, globalLoc n = .global r) ∨ globalLoc n = .hole := by
  unfold globalLoc
  split
  all_goals simp

/-- A register offset of an axis names a register of that axis, its command port or a hole. -/
theorem axisLoc_cases (a : Axis) (n : Nat) :
    (axisLoc a n = .cmd a ∧ n = 0x00) ∨ (∃ r, axisLoc a n = .axis a r) ∨ axisLoc a n = .hole := by
  unfold axisLoc
  split
  case h_48 =>
    unfold tlogLoc
    split_ifs
    all_goals simp
  all_goals simp

theorem axisLoc_ctrl {a b : Axis} {n : Nat} (h : axisLoc a n = .axis b .ctrl) : b = a ∧ n = 0x08 := by
  unfold axisLoc at h
  split at h
  case h_48 =>
    unfold tlogLoc at h
    split_ifs at h
    all_goals simp at h
  all_goals simp_all

theorem axisLoc_error {a b : Axis} {n : Nat} (h : axisLoc a n = .axis b .error) : b = a ∧ n = 0x10 := by
  unfold axisLoc at h
  split at h
  case h_48 =>
    unfold tlogLoc at h
    split_ifs at h
    all_goals simp at h
  all_goals simp_all

/-- What an address can name, with the address. -/
theorem locate_cases (k : BitVec 20) :
    (locate k = .gcmd ∧ k.toNat = 0x04) ∨
    (∃ a, locate k = .cmd a ∧ k.toNat = axisAddr a 0x00) ∨
    (∃ r, locate k = .global r) ∨
    (∃ a r off, locate k = .axis a r ∧ off < 0x100 ∧ k.toNat = axisAddr a off ∧ axisLoc a off = .axis a r) ∨
    (locate k = .storage k.toNat ∧
      ((∃ a off, off < 0x200 ∧ off % 16 < 12 ∧ off / 16 < 8 ∧ k.toNat = 0x400 + 0x200 * Axis.toNat a + off) ∨
        (0x10000 ≤ k.toNat ∧ k.toNat < 0x20000))) ∨
    locate k = .hole ∨
    (locate k = .unmapped ∧ ((0x300 ≤ k.toNat ∧ k.toNat ≤ 0x3FF) ∨ (0x800 ≤ k.toNat ∧ k.toNat ≤ 0xFFFF) ∨
      0x20000 ≤ k.toNat)) := by
  rcases lt_or_ge k.toNat 0x100 with h0 | h0
  · rw [locate_global h0]
    rcases globalLoc_cases k.toNat with ⟨h, h'⟩ | ⟨r, h⟩ | h
    · exact .inl ⟨h, h'⟩
    · exact .inr (.inr (.inl ⟨r, h⟩))
    · exact .inr (.inr (.inr (.inr (.inr (.inl h)))))
  rcases lt_or_ge k.toNat 0x300 with h1 | h1
  · obtain ⟨a, off, ho, hk⟩ : ∃ a off, off < 0x100 ∧ k.toNat = axisAddr a off := by
      rcases lt_or_ge k.toNat 0x200 with h2 | h2
      · exact ⟨.ax0, k.toNat - 0x100, by omega, by simp only [axisAddr, Axis.toNat]; omega⟩
      · exact ⟨.ax1, k.toNat - 0x200, by omega, by simp only [axisAddr, Axis.toNat]; omega⟩
    rw [locate_axis hk ho]
    rcases axisLoc_cases a off with ⟨h, h'⟩ | ⟨r, h⟩ | h
    · exact .inr (.inl ⟨a, h, by rw [hk, h']⟩)
    · exact .inr (.inr (.inr (.inl ⟨a, r, off, h, ho, hk, h⟩)))
    · exact .inr (.inr (.inr (.inr (.inr (.inl h)))))
  rcases lt_or_ge k.toNat 0x400 with h2 | h2
  · refine .inr (.inr (.inr (.inr (.inr (.inr ⟨?_, by omega⟩)))))
    simp (disch := omega) only [locate, if_neg, if_pos]
  rcases lt_or_ge k.toNat 0x800 with h3 | h3
  · obtain ⟨a, off, ho, hk⟩ : ∃ a off, off < 0x200 ∧ k.toNat = 0x400 + 0x200 * Axis.toNat a + off := by
      rcases lt_or_ge k.toNat 0x600 with h4 | h4
      · exact ⟨.ax0, k.toNat - 0x400, by omega, by simp only [Axis.toNat]; omega⟩
      · exact ⟨.ax1, k.toNat - 0x600, by omega, by simp only [Axis.toNat]; omega⟩
    rw [locate_harm hk ho]
    split_ifs with hc
    · exact .inr (.inr (.inr (.inr (.inl ⟨rfl, .inl ⟨a, off, ho, hc.2, hc.1, hk⟩⟩))))
    · exact .inr (.inr (.inr (.inr (.inr (.inl rfl)))))
  rcases lt_or_ge k.toNat 0x10000 with h4 | h4
  · refine .inr (.inr (.inr (.inr (.inr (.inr ⟨?_, by omega⟩)))))
    simp (disch := omega) only [locate, if_neg, if_pos]
  rcases lt_or_ge k.toNat 0x20000 with h5 | h5
  · obtain ⟨a, off, ho, hk⟩ : ∃ a off, off < 0x8000 ∧ k.toNat = 0x10000 + 0x8000 * Axis.toNat a + off := by
      rcases lt_or_ge k.toNat 0x18000 with h6 | h6
      · exact ⟨.ax0, k.toNat - 0x10000, by omega, by simp only [Axis.toNat]; omega⟩
      · exact ⟨.ax1, k.toNat - 0x18000, by omega, by simp only [Axis.toNat]; omega⟩
    rw [locate_map hk ho]
    exact .inr (.inr (.inr (.inr (.inl ⟨rfl, .inr ⟨h4, h5⟩⟩))))
  · refine .inr (.inr (.inr (.inr (.inr (.inr ⟨?_, by omega⟩)))))
    simp (disch := omega) only [locate, if_neg]

/-- A storage word lies in a storage window (`storageAddr`), all four bytes of it. -/
theorem locate_storage {k : BitVec 20} {n : Nat} (h : locate k = .storage n) (h4 : k.toNat % 4 = 0) :
    ∀ m, n ≤ m → m < n + 4 → storageAddr m = true := by
  intro m hm hm'
  rcases locate_cases k with ⟨h', _⟩ | ⟨_, h', _⟩ | ⟨_, h'⟩ | ⟨_, _, _, h', _⟩ | ⟨h', hr⟩ | h' | ⟨h', _⟩ <;>
    rw [h'] at h <;> try cases h
  rcases hr with ⟨a, off, ho, hf, hj, hk⟩ | hr
  · cases a <;> simp only [Axis.toNat] at hk <;>
      simp only [storageAddr, Config.nHarm, Bool.or_eq_true, Bool.and_eq_true, decide_eq_true_eq] <;> omega
  · simp only [storageAddr, Config.mapDepth, Bool.or_eq_true, Bool.and_eq_true, decide_eq_true_eq]
    omega

/-- Which accesses are accepted (20_memory.md R140, R147). -/
theorem busAccepts_iff (k : BitVec 20) (width : Nat) :
    busAccepts k width = true ↔ width = 32 ∧ k.toNat % 4 = 0 ∧
      ¬((0x300 ≤ k.toNat ∧ k.toNat ≤ 0x3FF) ∨ (0x800 ≤ k.toNat ∧ k.toNat ≤ 0xFFFF) ∨ 0x20000 ≤ k.toNat) := by
  simp only [busAccepts, Bool.and_eq_true, decide_eq_true_eq, and_assoc]
  refine and_congr_right fun _ => and_congr_right fun _ => ⟨fun h hc => h ?_, fun h hc => h ?_⟩
  · rcases hc with ⟨h0, h1⟩ | ⟨h0, h1⟩ | h0 <;>
      simp (disch := omega) only [locate, if_neg, if_pos]
  · rcases locate_cases k with ⟨h', _⟩ | ⟨_, h', _⟩ | ⟨_, h'⟩ | ⟨_, _, _, h', _⟩ | ⟨h', _⟩ | h' | ⟨_, h'⟩ <;>
      first | exact h' | (rw [h'] at hc; cases hc)

/-! ### One step for each delivery -/

theorem step_idle {s : State} (h : s.pending = []) : step s = .next s := by
  simp only [step, deliverNext, h]

theorem step_deliver {s : State} {d : Delivery} {ds : List Delivery} (h : s.pending = d :: ds) :
    step s = deliver d (s.take ds) := by simp only [step, deliverNext, h]

/-- An accepted write acts on the state with the delivery taken and the response set. -/
theorem step_write {s : State} {k : BitVec 20} {v : W32} {ds : List Delivery} (h : s.pending = .write k 32 v :: ds)
    (hk : busAccepts k 32 = true) : step s = writeLoc v (s.accept ds) (locate k) := by
  simp only [step_deliver h, deliver, busWrite, hk, if_true, State.accept]

/-- An accepted read answers the location's value and changes nothing else. -/
theorem step_read {s : State} {k : BitVec 20} {ds : List Delivery} (h : s.pending = .read k 32 :: ds)
    (hk : busAccepts k 32 = true) :
    step s = .next ((s.take ds).setBus { error := false, rdata := some (readLoc (s.take ds) (locate k)) }) := by
  simp only [step_deliver h, deliver, busRead, hk, if_true]

theorem step_event {s : State} {e : BitVec 16} {ds : List Delivery} (h : s.pending = .event e :: ds) :
    step s = runWire (.evt e) (s.take ds) := by simp only [step_deliver h, deliver]

/-- A register address of an axis is accepted. -/
theorem busAccepts_axis {k : BitVec 20} {a : Axis} {off : Nat} (h : k.toNat = axisAddr a off) (ho : off < 0x100)
    (h4 : off % 4 = 0) : busAccepts k 32 = true := by
  cases a <;> simp only [axisAddr, Axis.toNat] at h <;> rw [busAccepts_iff] <;> omega

/-- A global register address is accepted. -/
theorem busAccepts_global {k : BitVec 20} (h : k.toNat < 0x100) (h4 : k.toNat % 4 = 0) : busAccepts k 32 = true := by
  rw [busAccepts_iff]; omega

/-- A location's value does not show how many deliveries were taken, nor the last response. -/
theorem readLoc_congr {s t : State} (hg : t.g = s.g) (hseq : t.seq = s.seq) (hbrk : t.brk = s.brk)
    (hax : ∀ a, t.axis a = s.axis a) (hb : t.byteAt = s.byteAt) (l : Loc) : readLoc t l = readLoc s l := by
  have hu : ∀ a, pllUnstable t a = pllUnstable s a := fun a => by
    rw [pllUnstable_eq t a _ (isNaN_nanDraw s 0), pllUnstable_eq s a _ (isNaN_nanDraw s 0), hg, hax]
  cases l with
  | global r => cases r <;> simp only [readLoc, readGlobal, hg, hseq, hbrk, hax, faultFlag]
  | axis a r => cases r <;> simp only [readLoc, readAxis, hax, hu]
  | storage n => simp only [readLoc, State.wordAt, hb]
  | _ => rfl

end Sys2Proof.Machine
end

