-- ==== Sys2Proof/Laws/Exec.lean ====
section
/-!
SUPPORT. What the shared parts of the meanings can do, said once, and what no instruction changes.
-/

namespace Sys2Proof.Machine

/-! ### The current controller's commit (42_foc.md R310, R311) -/

/-- The timings and the log entry of a committed step, as one update. -/
theorem logCount_commitTimings (a : Axis) (d : Duties) (s : State) :
    logCount a (commitTimings a d s) = s.setPwm a
      { (s.axis a).pwm with
        cmpA := compareCount (s.nanDraw 60) d.tA (s.axis a).pwm.period
        cmpB := compareCount (s.nanDraw 61) d.tB (s.axis a).pwm.period
        cmpC := compareCount (s.nanDraw 62) d.tC (s.axis a).pwm.period
        tlog := (s.axis a).pwm.tlog.setIfInBounds (s.axis a).pwm.tlogIdx.toNat (s.samplePwm a)
        tlogIdx := BitVec.ofNat 4 (((s.axis a).pwm.tlogIdx.toNat + 1) % Config.logDepth)
        tlast := s.samplePwm a } := by cases a <;> rfl

/-- The log's index wraps after the last entry (42_foc.md R311). -/
theorem tlogIdx_next (i : BitVec 4) : BitVec.ofNat 4 ((i.toNat + 1) % Config.logDepth) = i + 1#4 := by
  apply BitVec.eq_of_toNat_eq
  simp [BitVec.toNat_add]

/-- A write at the log's index is in bounds. -/
theorem tlog_setIfInBounds (v : Vector (BitVec 16) Config.logDepth) (i : BitVec 4) (c : BitVec 16) :
    v.setIfInBounds i.toNat c = v.set i.toNat c i.isLt := by
  apply Vector.toArray_inj.mp
  simp [Vector.setIfInBounds, Vector.set, Array.setIfInBounds, i.isLt]

/-- A committed step in time: the log, the report, `OK` (42_foc.md R300, R320). -/
theorem finishStep_of_intime {a : Axis} {d : Duties} {s : State} (h : deadlineMissed a s = false) :
    finishStep a d s = (brkReport a (logCount a (commitTimings a d s))).setStatus a .ok := by
  rw [finishStep, h]; rfl

/-- A committed step that missed the deadline: the log, the fault, `E_TIMING` (42_foc.md R311). -/
theorem finishStep_of_missed {a : Axis} {d : Duties} {s : State} (h : deadlineMissed a s = true) :
    finishStep a d s = (faultAxis .focTiming a (logCount a (commitTimings a d s))).setStatus a .eTiming := by
  rw [finishStep, h]; rfl

/-- A NaN in a modulation vector reaches a duty fraction, whichever case it lands in (42_foc.md R303). -/
theorem isNaN_svm {nan : Nat → F32} (hn : ∀ n, isNaN (nan n) = true) {al be : F32}
    (h : isNaN al = true ∨ isNaN be = true) : (svm nan al be).anyNaN = true := by
  have hk := h.imp_right fun hb => isNaN_fmul (x := fOneBySqrt3) (hn 0) (.inr hb)
  have hs : ∀ {t u}, isNaN t = true ∨ isNaN u = true →
      isNaN (fHalve (nan 5) (fsub (nan 4) (fsub (nan 3) fOne t) u)) = true := fun ht =>
    isNaN_fmul (hn _) (.inl (isNaN_fsub (hn _) (ht.imp_left fun ht => isNaN_fsub (hn _) (.inr ht))))
  unfold svm
  simp only
  split <;> simp only [Duties.anyNaN, Bool.or_eq_true]
  · exact .inl (.inl (hs (.inl (isNaN_fsub (hn _) hk))))
  · exact .inl (.inr (hs (.inl (isNaN_fadd (hn _) hk))))
  · exact .inl (.inr (hs (.inr (isNaN_fsub (hn _) (by simpa using hk)))))
  · exact .inr (hs (.inl (isNaN_fadd (hn _) (by simpa using hk))))
  · exact .inr (hs (.inl (isNaN_fsub (hn _) (by simpa using hk))))
  · exact .inl (.inl (hs (.inr (isNaN_fadd (hn _) hk))))

/-- When `FOC_STEP` and `VOLT_STEP` are not refused (42_foc.md R291). -/
theorem focRefusal_eq_none {a : Axis} {s : State} :
    focRefusal a s = none ↔
      (s.axis a).ctl.enable = true ∧ isFinite s.g.vbus = true ∧ flt fZero s.g.vbus = true := by
  unfold focRefusal fgt
  rw [← State.enabled_eq]
  split_ifs with h1 h2
  · simp [h1]
  · simp only [false_iff, not_and]
    intro _ h3 h4
    simp [h3, h4] at h2
  · simpa [h1] using h2

/-! ### The sampler (40_sequencer.md) -/

/-- The sequencing fault touches `SEQ`'s record and `RUN`, and of the axes the error bit and `ENABLE` (R235). -/
theorem seqFault_eq (e : BitVec 16) (reason : SeqReason) (s : State) :
    seqFault e reason s =
      (((s.setSeq { s.seq with faultInfo := seqFaultWord s.seq e reason, run := false }).setCtl .ax0
          { (s.axis .ax0).ctl with enable := false, error := (s.axis .ax0).ctl.error ||| 1#10 }).setCtl .ax1
          { (s.axis .ax1).ctl with enable := false, error := (s.axis .ax1).ctl.error ||| 1#10 }).setBrk
        (seqFault e reason s).brk :=
  fault_both_eq .adcSeq _

/-- The conversion with a valid gain changes the sampler's registers of its axis only (R224, R229, R230). -/
theorem convert_of_valid {ax : Axis} {u : AdcUnit} {raw : BitVec 12} {s : State}
    (h : gainValid (s.axis ax).samp.currGain = true) :
    convert ax u raw s = s.setSamp ax (takeConversion s.nanDraw s.g (seqKind s.seq.state) u
      (rawToCurrent (s.nanDraw 0) raw (s.axis ax).samp.currGain) (s.axis ax).samp) := by
  simp only [convert, h, if_true]

/-- The conversion with an invalid gain (R228). -/
theorem convert_of_invalid {ax : Axis} {u : AdcUnit} {raw : BitVec 12} {s : State}
    (h : gainValid (s.axis ax).samp.currGain = false) : convert ax u raw s = gainInvalid ax s := by
  simp only [convert, h]; rfl

/-- The gain fault touches `BAD`, and of its axis the error bit and `ENABLE` (R228). -/
theorem gainInvalid_eq (ax : Axis) (s : State) :
    gainInvalid ax s =
      ((s.setSeq { s.seq with bad := true }).setCtl ax
          { (s.axis ax).ctl with enable := false, error := (s.axis ax).ctl.error ||| 2#10 }).setBrk
        (gainInvalid ax s).brk := by
  conv_lhs => rw [gainInvalid, fault_one, faultAxis_eq]
  rfl

/-- What an `ADC_EOC` does, by the first check of R224 that applies. -/
theorem execAdcEoc_cases (chan trig : Axis) (unit : BitVec 2) (raw : BitVec 12) (s : State) :
    (s.seq.run = false ∧ execAdcEoc chan trig unit raw s = .next s) ∨
    (s.seq.run = true ∧ ∃ reason, execAdcEoc chan trig unit raw s =
      .next (seqFault (evtWord chan trig unit raw) reason s)) ∨
    (s.seq.run = true ∧ trig = seqAxis s.seq.state ∧ chan = seqAxis s.seq.state ∧
      s.seq.done.get (adcUnit unit) = false ∧
      execAdcEoc chan trig unit raw s =
        .next (completeIfDone (markDone (adcUnit unit) (convert (seqAxis s.seq.state) (adcUnit unit) raw s)))) := by
  unfold execAdcEoc
  simp only
  split_ifs with h1 h2 h3 h4
  · exact .inl ⟨h1, rfl⟩
  · exact .inr (.inl ⟨by simpa using h1, _, rfl⟩)
  · exact .inr (.inl ⟨by simpa using h1, _, rfl⟩)
  · exact .inr (.inl ⟨by simpa using h1, _, rfl⟩)
  · exact .inr (.inr ⟨by simpa using h1, not_not.mp h2, not_not.mp h3, by simpa using h4, rfl⟩)

/-! ### What no instruction changes -/

/-- An update of the inputs by nothing is no update. -/
theorem State.SameInputs.refl (s : State) : s.SameInputs s := ⟨rfl, rfl, rfl, rfl, rfl, rfl⟩

theorem State.SameInputs.trans {s t u : State} (h : s.SameInputs t) (h' : t.SameInputs u) : s.SameInputs u :=
  ⟨h'.epoch.trans h.epoch, h'.draws.trans h.draws, h'.encCnt.trans h.encCnt, h'.pwmCnt.trans h.pwmCnt,
    h'.bus.trans h.bus, h'.pending.trans h.pending⟩

theorem setFoc_sameInputs (s : State) (a : Axis) (r : FocRegs) : s.SameInputs (s.setFoc a r) :=
  ⟨rfl, rfl, rfl, rfl, rfl, rfl⟩

theorem markDone_sameInputs (u : AdcUnit) (s : State) : s.SameInputs (markDone u s) :=
  ⟨rfl, rfl, rfl, rfl, rfl, rfl⟩

theorem brkTry_sameInputs (s : State) : s.SameInputs (brkTry s) := by
  rw [brkTry_eq]; exact ⟨rfl, rfl, rfl, rfl, rfl, rfl⟩

theorem disableAxis_sameInputs (a : Axis) (s : State) : s.SameInputs (disableAxis a s) := by
  rw [disableAxis_eq]; exact ⟨rfl, rfl, rfl, rfl, rfl, rfl⟩

theorem faultAxis_sameInputs (e : BlockError) (a : Axis) (s : State) : s.SameInputs (faultAxis e a s) := by
  rw [faultAxis_eq]; exact ⟨rfl, rfl, rfl, rfl, rfl, rfl⟩

theorem seqFault_sameInputs (e : BitVec 16) (reason : SeqReason) (s : State) : s.SameInputs (seqFault e reason s) := by
  rw [seqFault_eq]; exact ⟨rfl, rfl, rfl, rfl, rfl, rfl⟩

theorem finishStep_sameInputs (a : Axis) (d : Duties) (s : State) : s.SameInputs (finishStep a d s) := by
  have h1 : s.SameInputs (logCount a (commitTimings a d s)) := ⟨rfl, rfl, rfl, rfl, rfl, rfl⟩
  cases h : deadlineMissed a s
  · rw [finishStep_of_intime h, brkReport_eq]
    exact h1.trans ⟨rfl, rfl, rfl, rfl, rfl, rfl⟩
  · rw [finishStep_of_missed h, faultAxis_eq]
    exact h1.trans ⟨rfl, rfl, rfl, rfl, rfl, rfl⟩

theorem convert_sameInputs (ax : Axis) (u : AdcUnit) (raw : BitVec 12) (s : State) :
    s.SameInputs (convert ax u raw s) := by
  cases h : gainValid (s.axis ax).samp.currGain
  · rw [convert_of_invalid h, gainInvalid_eq]; exact ⟨rfl, rfl, rfl, rfl, rfl, rfl⟩
  · rw [convert_of_valid h]; exact ⟨rfl, rfl, rfl, rfl, rfl, rfl⟩

theorem completeIfDone_sameInputs (s : State) : s.SameInputs (completeIfDone s) := by
  unfold completeIfDone completeState
  simp only
  split_ifs <;> exact ⟨rfl, rfl, rfl, rfl, rfl, rfl⟩

/-- No instruction changes the inputs, the draws' counters, the bus response or what is pending. -/
theorem exec_sameInputs {i : Instr} {s t : State} (h : exec i s = .next t) : s.SameInputs t := by
  cases i with
  | focStep a =>
    simp only [exec, execFocStep] at h
    split at h
    · cases h; exact ⟨rfl, rfl, rfl, rfl, rfl, rfl⟩
    · split_ifs at h
      · cases h; rw [modulationFault, fault_one, faultAxis_eq]; exact ⟨rfl, rfl, rfl, rfl, rfl, rfl⟩
      · cases h; exact (setFoc_sameInputs s a _).trans (finishStep_sameInputs a _ _)
  | voltStep a =>
    simp only [exec, execVoltStep] at h
    split at h
    · cases h; exact ⟨rfl, rfl, rfl, rfl, rfl, rfl⟩
    · split_ifs at h
      · cases h; rw [modulationFault, fault_one, faultAxis_eq]; exact ⟨rfl, rfl, rfl, rfl, rfl, rfl⟩
      · cases h; exact (setFoc_sameInputs s a _).trans (finishStep_sameInputs a _ _)
  | adcEoc chan trig unit raw =>
    simp only [exec] at h
    rcases execAdcEoc_cases chan trig unit raw s with ⟨_, h'⟩ | ⟨_, _, h'⟩ | ⟨_, _, _, _, h'⟩ <;> rw [h'] at h <;>
      cases h
    · exact State.SameInputs.refl s
    · exact seqFault_sameInputs _ _ _
    · exact (convert_sameInputs (seqAxis s.seq.state) (adcUnit unit) raw s).trans
        ((markDone_sameInputs (adcUnit unit) _).trans (completeIfDone_sameInputs _))
  | adcEocForeign chan trig unit raw =>
    simp only [exec, execAdcEocForeign] at h
    split_ifs at h <;> cases h
    · exact State.SameInputs.refl s
    · exact seqFault_sameInputs _ _ _
  | acogLookup a | acogCompress a | acogDecompress a | pllSetBw a =>
    simp only [exec, execAcogLookup, execAcogCompress, execAcogDecompress, execPllSetBw] at h
    split_ifs at h <;> cases h <;> exact ⟨rfl, rfl, rfl, rfl, rfl, rfl⟩
  | nop a | pllInit a | pllUpdate a | gnop | seqStart =>
    simp only [exec, execNop, execPllInit, execPllUpdate, execGnop, execSeqStart] at h
    cases h
    exact ⟨rfl, rfl, rfl, rfl, rfl, rfl⟩

end Sys2Proof.Machine
end

