-- ==== Sys2Proof/Laws/PerInstr.lean ====
section
/-!
SUPPORT. What holds of the encoding of every instruction, one lemma for each.
-/

namespace Sys2Proof.Laws

open Sys2Proof.Machine

/-- The word of an instruction is one its port may carry: a command of an axis goes to the port of that axis, a global command
to the global port, both with `RSV = 0` (30_encoding.md R180, R181, R182), and an event to `adc_evt` with the bit that tells
the two events apart (R189). -/
def EncodedPort.Statement (i : Instr) : Prop :=
  match encode i with
  | .cmd a w => commandAxis i = some a ∧ cmdRsv w = 0#24
  | .gcmd w => commandAxis i = none ∧ cmdRsv w = 0#24
  | .evt e => commandAxis i = none ∧
      (i.wellFormed = true → (e.getLsbD 13 = true ↔ ∃ chan trig unit raw, i = .adcEocForeign chan trig unit raw))

/-- Bit 13 of an event word is bit 1 of its `UNIT` (30_encoding.md R184). -/
theorem evtWord_bit13 (chan trig : Axis) (unit : BitVec 2) (raw : BitVec 12) :
    (evtWord chan trig unit raw).getLsbD 13 = unit.getLsbD 1 := by
  simp only [evtWord, BitVec.getLsbD_append]
  rfl

theorem EncodedPort.nop (a : Axis) : EncodedPort.Statement (.nop a) := ⟨rfl, rfl⟩

theorem EncodedPort.pllInit (a : Axis) : EncodedPort.Statement (.pllInit a) := ⟨rfl, rfl⟩

theorem EncodedPort.pllUpdate (a : Axis) : EncodedPort.Statement (.pllUpdate a) := ⟨rfl, rfl⟩

theorem EncodedPort.pllSetBw (a : Axis) : EncodedPort.Statement (.pllSetBw a) := ⟨rfl, rfl⟩

theorem EncodedPort.focStep (a : Axis) : EncodedPort.Statement (.focStep a) := ⟨rfl, rfl⟩

theorem EncodedPort.voltStep (a : Axis) : EncodedPort.Statement (.voltStep a) := ⟨rfl, rfl⟩

theorem EncodedPort.acogLookup (a : Axis) : EncodedPort.Statement (.acogLookup a) := ⟨rfl, rfl⟩

theorem EncodedPort.acogCompress (a : Axis) : EncodedPort.Statement (.acogCompress a) := ⟨rfl, rfl⟩

theorem EncodedPort.acogDecompress (a : Axis) : EncodedPort.Statement (.acogDecompress a) := ⟨rfl, rfl⟩

theorem EncodedPort.gnop : EncodedPort.Statement .gnop := ⟨rfl, rfl⟩

theorem EncodedPort.seqStart : EncodedPort.Statement .seqStart := ⟨rfl, rfl⟩

theorem EncodedPort.adcEoc (chan trig : Axis) (unit : BitVec 2) (raw : BitVec 12) :
    EncodedPort.Statement (.adcEoc chan trig unit raw) :=
  ⟨rfl, fun h => by rw [evtWord_bit13]; simpa [Instr.wellFormed] using h⟩

theorem EncodedPort.adcEocForeign (chan trig : Axis) (unit : BitVec 2) (raw : BitVec 12) :
    EncodedPort.Statement (.adcEocForeign chan trig unit raw) :=
  ⟨rfl, fun h => by rw [evtWord_bit13]; simpa [Instr.wellFormed] using h⟩

end Sys2Proof.Laws
end

