-- ==== Sys2Proof/Tests/Slice0.lean ====
section
/-!
SUPPORT. Tests: the words of 30_encoding.md, the vectors of 95_test_vectors.md (named in each test), the smoke test of
`wellFormed`, and a witness for the hypotheses of each statement that has some.
-/

/- One theorem at a time: kernel evaluations side by side would exceed the memory the check allows. -/
set_option Elab.async false

namespace Sys2Proof.Tests

open Sys2Proof Sys2Proof.Machine

/-! ### Well-formedness: one ill-formed term for each check -/

theorem test_wf_refuses_eoc_of_foreign_unit :
    Instr.wellFormed (.adcEoc .ax0 .ax0 2#2 0#12) = false := by decide

theorem test_wf_refuses_foreign_of_pair_unit :
    Instr.wellFormed (.adcEocForeign .ax0 .ax0 1#2 0#12) = false := by decide

/-! ### Decoding: words written out from 30_encoding.md R181, R182, R184, R186, R187, R189 -/

theorem test_decode_nop : decode (.cmd .ax1 0b00000000000000000000000000000000#32) = .ok (.nop .ax1) := by decide

theorem test_decode_pllInit : decode (.cmd .ax0 0b00000000000000000000000000000001#32) = .ok (.pllInit .ax0) := by
  decide

theorem test_decode_pllUpdate : decode (.cmd .ax1 0b00000000000000000000000000000010#32) = .ok (.pllUpdate .ax1) := by
  decide

theorem test_decode_pllSetBw : decode (.cmd .ax0 0b00000000000000000000000000000011#32) = .ok (.pllSetBw .ax0) := by
  decide

theorem test_decode_focStep : decode (.cmd .ax0 0b00000000000000000000000000010000#32) = .ok (.focStep .ax0) := by
  decide

theorem test_decode_voltStep : decode (.cmd .ax1 0b00000000000000000000000000010001#32) = .ok (.voltStep .ax1) := by
  decide

theorem test_decode_acogLookup :
    decode (.cmd .ax0 0b00000000000000000000000000100000#32) = .ok (.acogLookup .ax0) := by decide

theorem test_decode_acogCompress :
    decode (.cmd .ax1 0b00000000000000000000000000100001#32) = .ok (.acogCompress .ax1) := by decide

theorem test_decode_acogDecompress :
    decode (.cmd .ax0 0b00000000000000000000000000100010#32) = .ok (.acogDecompress .ax0) := by decide

theorem test_decode_gnop : decode (.gcmd 0b00000000000000000000000000000000#32) = .ok .gnop := by decide

theorem test_decode_seqStart : decode (.gcmd 0b00000000000000000000000000000001#32) = .ok .seqStart := by decide

/-- `c = 1, t = 0, u = 01, r = 100001100100` (2148). -/
theorem test_decode_adcEoc :
    decode (.evt 0b1001100001100100#16) = .ok (.adcEoc .ax1 .ax0 1#2 2148#12) := by decide

/-- `c = 0, t = 1, u = 10, r = 000000000111`. -/
theorem test_decode_adcEocForeign :
    decode (.evt 0b0110000000000111#16) = .ok (.adcEocForeign .ax0 .ax1 2#2 7#12) := by decide

/-- V-SYS-2: a reserved `OPC`. -/
theorem test_decode_reserved_opc : decode (.cmd .ax0 0x00000004#32) = .error .opcReserved := by decide

/-- V-SYS-3: `RSV != 0`. -/
theorem test_decode_reserved_bits : decode (.cmd .ax0 0x00000110#32) = .error .rsvNonzero := by decide

/-- V-SYS-4: a reserved global `OPC`. -/
theorem test_decode_gcmd_reserved : decode (.gcmd 0x00000002#32) = .error .opcReserved := by decide

/-! ### Small states -/

/-- The state an outcome goes on with. -/
def outState (o : Host.Outcome State Fault Refusal) : State :=
  match o with
  | .next t => t
  | .fault f => nomatch f
  | .refused _ => State.reset

/-- The period of the vectors, `1/8000` s. -/
def tVec : F32 := 0x3903126F#32

/-- The gain of the vectors, 0.01. -/
def gainVec : F32 := 0x3C23D70A#32

/-- The start of the vectors of 95_test_vectors.md 2.1: reset, period, gains, `SEQ_START`, in sequencer state `st`. -/
def seqStart (st : BitVec 2) : State :=
  let r := { AxisRegs.reset with samp := { AxisRegs.reset.samp with currGain := gainVec } }
  { State.reset with
    g := { State.reset.g with t := tVec }
    seq := { State.reset.seq with state := st, run := true, trigSel := ⟨seqAxis st, seqAxis st⟩ }
    ax := ⟨r, r⟩ }

/-- Axis 0 after reset with the estimator's registers changed, and the period of the vectors. -/
def pllStart (f : PllRegs → PllRegs) (cnt : BitVec 16) : State :=
  { State.reset with
    g := { State.reset.g with t := tVec }
    ax := ⟨{ AxisRegs.reset with pll := f AxisRegs.reset.pll }, AxisRegs.reset⟩
    encCnt := ⟨cnt, 0#16⟩ }

/-- "Example A" of 95_test_vectors.md 2.3, with `BRAKE_R = 2.0`. -/
def exampleA (cnt : BitVec 16) : State :=
  let r0 := AxisRegs.reset
  { State.reset with
    g := { State.reset.g with t := tVec, vbus := 0x41C00000#32, brakeR := 0x40000000#32 }
    ax := ⟨{ r0 with
      ctl := { r0.ctl with enable := true, phaseSrc := true }
      samp := { r0.samp with sampleB := 0xBF000000#32, sampleC := 0xBF000000#32 }
      foc := { r0.foc with iqSet := 0x40000000#32, kpI := 0x3F000000#32, kiI := 0x42C80000#32 }
      pwm := { r0.pwm with period := 4000#16, deadline := 2000#16 } }, r0⟩
    pwmCnt := ⟨cnt, 0#16⟩ }

/-- Axis 0 with `CPR = 4` and four map words written. -/
def mapStart (m0 m1 m2 m3 : F32) : State :=
  { State.reset with
    ax := ⟨{ AxisRegs.reset with pll := { AxisRegs.reset.pll with cpr := 4#32 } }, AxisRegs.reset⟩
    mem := Memory.setWords [] (mapAddr .ax0 0) [m0, m1, m2, m3] }

/-- Axis 0 with `CPR = 4`, `HARM[0][0] = (1, -2.0, 2.0)` and padding. -/
def harmStart : State :=
  { State.reset with
    ax := ⟨{ AxisRegs.reset with pll := { AxisRegs.reset.pll with cpr := 4#32 } }, AxisRegs.reset⟩
    mem := Memory.setHarmonics [] (harmAddr .ax0 0)
      (⟨1#32, 0xC0000000#32, 0x40000000#32⟩ :: List.replicate 7 ⟨0#32, 0#32, 0#32⟩) }

/-! ### Numerics -/

/-- `42_foc.md` R296 at `VBUS = 24.0`: `v_to_mod = 0.0625`. -/
theorem test_voltsToMod : voltsToMod (fun _ => 0x7FC00000#32) 0x41C00000#32 = 0x3D800000#32 := by decide +kernel

/-- The magnitude of V-FOC-1: `0x3D8F1BBD`. -/
theorem test_sqrt_magnitude :
    fsqrt 0#32 (fmag2 0#32 0xBD000000#32 0x3D800000#32) = 0x3D8F1BBD#32 := by decide +kernel

/-- V-SVM-1 and V-SVM-6. -/
theorem test_svm_cases :
    svm (fun _ => 0#32) 0xBD000000#32 0x3D800000#32 = ⟨0x3F080000#32, 0x3EED8658#32, 0x3F093CD4#32⟩ ∧
      svm (fun _ => 0#32) 0x3DCCCCCD#32 0xBD4CCCCD#32 = ⟨0x3EDF028A#32, 0x3F107EBB#32, 0x3F01B702#32⟩ := by
  decide +kernel

/-- V-SVM-3, V-SVM-4 and V-SVM-5: cases 3, 4 and 5. -/
theorem test_svm_cases_345 :
    svm (fun _ => 0#32) 0xBDCCCCCD#32 0x00000000#32 = ⟨0x3F0CCCCD#32, 0x3EE66666#32, 0x3F0CCCCD#32⟩ ∧
      svm (fun _ => 0#32) 0xBDCCCCCD#32 0xBD4CCCCD#32 = ⟨0x3F107EBB#32, 0x3EFC91FC#32, 0x3EDF028A#32⟩ ∧
      svm (fun _ => 0#32) 0x00000000#32 0xBDCCCCCD#32 = ⟨0x3F000000#32, 0x3F0EC7B9#32, 0x3EE2708E#32⟩ := by
  decide +kernel

/-! ### One step of each instruction -/

/-- V-SYS-5. -/
theorem test_nop :
    let s := State.reset.setStatus .ax0 .eTiming
    ((outState (exec (.nop .ax0) s)).axis .ax0).ctl.cmdStatus = .ok := by decide +kernel

theorem test_gnop : (outState (exec .gnop (State.reset.setGStatus .eIllegal))).g.gcmdStatus = .ok := by decide +kernel

/-- 44_system.md R382: after a sequencing fault in state 2, `SEQ_STATUS = 0x10`. -/
theorem test_seqStart :
    let s := { seqStart 2#2 with seq := { (seqStart 2#2).seq with run := false, done := ⟨true, false⟩ } }
    readGlobal (outState (exec .seqStart s)) .seqStatus = 0x10#32 := by decide +kernel

/-- V-SEQ-1. -/
theorem test_adcEoc_stages :
    let t := outState (exec (.adcEoc .ax0 .ax0 0#2 2148#12) (seqStart 0#2))
    ((t.axis .ax0).samp.stageB, readGlobal t .trigSel, readGlobal t .seqStatus) = (0x3F800000#32, 1#32, 0x14#32) := by
  decide +kernel

/-- V-SEQ-4. -/
theorem test_adcEoc_filters :
    let t := outState (exec (.adcEoc .ax1 .ax1 0#2 2148#12) (seqStart 1#2))
    ((t.axis .ax1).samp.dcB, (t.axis .ax1).samp.ready) = (0x3A23D70B#32, false) := by decide +kernel

/-- V-SEQ-10. -/
theorem test_adcEocForeign :
    let t := outState (exec (.adcEocForeign .ax0 .ax0 2#2 0#12) (seqStart 0#2))
    (t.seq.faultInfo, t.seq.run, (t.axis .ax1).ctl.error) = (0x80102000#32, false, 1#10) := by decide +kernel

/-- V-PLL-13. -/
theorem test_pllInit :
    let t := outState (exec (.pllInit .ax0) (pllStart id 300#16))
    (readAxis t .ax0 .encPos, readAxis t .ax0 .encPosMod, readAxis t .ax0 .pllPos) =
      (300#32, 300#32, 0x43960000#32) := by decide +kernel

/-- Program P2, step 7: `ELEC_PHASE = 0x40B6D9BB`. -/
theorem test_pllInit_phase :
    let s := pllStart (fun r => { r with polePairs := 7#32, encOffset := 100#32 }) 65530#16
    readAxis (outState (exec (.pllInit .ax0) s)) .ax0 .elecPhase = 0x40B6D9BB#32 := by decide +kernel

/-- Program P2, step 9: across the wrap of the counter. -/
theorem test_pllUpdate :
    let s := pllStart (fun r => { r with polePairs := 7#32, encOffset := 100#32, kp := 0x44FA0000#32,
                                         ki := 0x49742400#32, encPrev := 65530#16, encPos := 65530#32,
                                         pos := 0x477FFA00#32 }) 5#16
    let t := outState (exec (.pllUpdate .ax0) s)
    (readAxis t .ax0 .encPos, readAxis t .ax0 .elecPhase, readAxis t .ax0 .pllPos, readAxis t .ax0 .pllVel) =
      (65541#32, 0x40B8BD8A#32, 0x477FFCC0#32, 0x44ABE001#32) := by decide +kernel

/-- V-PLL-8. -/
theorem test_pllSetBw :
    let t := outState (exec (.pllSetBw .ax0) (pllStart (fun r => { r with bw := 0x447A0000#32 }) 0#16))
    (readAxis t .ax0 .pllKp, readAxis t .ax0 .pllKi) = (0x44FA0000#32, 0x49742400#32) := by decide +kernel

/-- V-PLL-9. -/
theorem test_pllSetBw_unstable :
    let t := outState (exec (.pllSetBw .ax0) (pllStart (fun r => { r with bw := 0x457A0000#32 }) 0#16))
    (readAxis t .ax0 .cmdStatus, readAxis t .ax0 .pllKp) = (7#32, 0#32) := by decide +kernel

/-- V-FOC-1 and V-BRK-1. -/
theorem test_focStep :
    let t := outState (exec (.focStep .ax0) (exampleA 1234#16))
    (pwmCmpPort t .ax0, readAxis t .ax0 .vIntD, readAxis t .ax0 .vIntQ, readAxis t .ax0 .ibus, t.brk.duty) =
      ((2125#16, 1855#16, 2144#16), 0xBC4CCCCD#32, 0x3CCCCCCD#32, 0xBD000000#32, 0x3B2AAAAB#32) := by decide +kernel

/-- V-FOC-3: the clipped branch. -/
theorem test_focStep_clips :
    let r := (exampleA 1234#16).axis .ax0
    let s := (exampleA 1234#16).setFoc .ax0 { r.foc with iqSet := 0x42200000#32, vIntQ := 0x3F000000#32 }
    let t := outState (exec (.focStep .ax0) s)
    (pwmCmpPort t .ax0, readAxis t .ax0 .modD, readAxis t .ax0 .modQ, readAxis t .ax0 .vIntQ) =
      ((2016#16, 1600#16, 2399#16), 0xBB8A6342#32, 0x3E314F2D#32, 0x3EFD70A4#32) := by decide +kernel

/-- V-FOC-13. -/
theorem test_voltStep :
    let s := (exampleA 1234#16).setFoc .ax0 { (exampleA 1234#16).ax.ax0.foc with vAlpha := 0x3FCCCCCD#32 }
    let t := outState (exec (.voltStep .ax0) s)
    (pwmCmpPort t .ax0, readAxis t .ax0 .ibus, readAxis t .ax0 .cmdStatus) =
      ((1800#16, 2200#16, 2200#16), 0#32, 0#32) := by decide +kernel

/-- V-FOC-6, as a `VOLT_STEP`: a missed deadline. -/
theorem test_voltStep_misses :
    let t := outState (exec (.voltStep .ax0) (exampleA 2000#16))
    (readAxis t .ax0 .cmdStatus, readAxis t .ax0 .error, pwmEnPort t .ax0, readAxis t .ax0 (.tlog 0)) =
      (5#32, 4#32, false, 2000#32) := by decide +kernel

/-- V-ACOG-7: position -1.7, index 3. -/
theorem test_acogLookup :
    let s := mapStart 0xBF800000#32 0xBF800000#32 0x3F800000#32 0x40400000#32
    let s1 := s.setAcog .ax0 { (s.axis .ax0).acog with mapValid := true, pos := 0xBFD9999A#32 }
    readAxis (outState (exec (.acogLookup .ax0) s1)) .ax0 .acogFf = 0x40400000#32 := by decide +kernel

/-- V-ACOG-5. -/
theorem test_acogCompress :
    let t := outState (exec (.acogCompress .ax0)
      (mapStart 0x3F800000#32 0x40000000#32 0x40400000#32 0x40800000#32))
    (t.harmEntry .ax0 0, t.harmEntry .ax0 7) = (⟨1#32, 0xC0000000#32, 0x40000000#32⟩, ⟨0#32, 0#32, 0#32⟩) := by
  decide +kernel

/-- V-ACOG-6. -/
theorem test_acogDecompress :
    let t := outState (exec (.acogDecompress .ax0) harmStart)
    ((List.range 4).map (t.mapEntry .ax0), (t.axis .ax0).acog.mapValid) =
      ([0xBF800000#32, 0xBF800000#32, 0x3F800000#32, 0x3F800000#32], true) := by decide +kernel

/-! ### The bus -/

/-- V-SYS-1. -/
theorem test_read_params :
    (outState (step { State.reset with pending := [.read 0x40#20 32] })).bus = ⟨false, some 0x000C810D#32⟩ := by
  decide +kernel

/-- V-SYS-7. -/
theorem test_read_misaligned :
    (outState (step { State.reset with pending := [.read 0x302#20 32] })).bus = ⟨true, some 0#32⟩ := by decide +kernel

/-- V-SYS-8. -/
theorem test_enable_gate :
    let s := orError .ax0 1#10 { State.reset with pending := [.write 0x108#20 32 1#32] }
    pwmEnPort (outState (step s)) .ax0 = false := by decide +kernel

/-- V-SYS-11. -/
theorem test_error_set_disables :
    let s := { exampleA 0#16 with pending := [.write 0x114#20 32 4#32] }
    (readAxis (outState (step s)) .ax0 .error, pwmEnPort (outState (step s)) .ax0) = (4#32, false) := by
  decide +kernel

/-- V-ACOG-12: an accepted change of `CPR`. -/
theorem test_cpr_clears_map_valid :
    let s := { State.reset with pending := [.write 0x12C#20 32 8#32] }
    let t := outState (step (s.setAcog .ax0 { (s.axis .ax0).acog with mapValid := true }))
    (readAxis t .ax0 .cpr, readAxis t .ax0 .acogCtrl) = (8#32, 0#32) := by decide +kernel

/-- A word placed by `withFetchWord` runs as the next step. -/
theorem test_withFetchWord :
    readAxis (outState (step (State.reset.withFetchWord 32 0x10))) .ax0 .cmdStatus = 4#32 := by decide +kernel

/-! ### Witnesses: for each statement with hypotheses, a concrete case that meets all of them, and one for each clause -/

/-- A state with deliveries pending. -/
def withPending (s : State) (ds : List Delivery) : State := { s with pending := ds }

/-- Whether an outcome goes on. -/
def goesOn (o : Host.Outcome State Fault Refusal) : Bool :=
  match o with
  | .next _ => true
  | .fault _ => false
  | .refused _ => false

/-- An outcome that goes on is a next state. -/
theorem eq_next {o : Host.Outcome State Fault Refusal} (h : goesOn o = true) : o = .next (outState o) := by
  cases o with
  | next t => rfl
  | fault f => nomatch f
  | refused r => cases h

/-- Axis 0 armed and running, as in `exampleA`, and axis 1 armed too. -/
def bothArmed : State :=
  let s := exampleA 1234#16
  s.setAxis .ax1 (s.axis .ax0)

theorem witness_DecodeOfEncodeIsTheInstruction :
    Instr.wellFormed (.adcEoc .ax1 .ax0 1#2 4095#12) = true ∧ Instr.wellFormed (.adcEocForeign .ax0 .ax1 3#2 0#12) = true ∧
      Instr.wellFormed (.acogDecompress .ax1) = true := by decide

theorem witness_DecodedInstructionEncodesToItsWord :
    decode (.cmd .ax1 0x00000022#32) = .ok (.acogDecompress .ax1) ∧ decode (.gcmd 0#32) = .ok .gnop ∧
      decode (.evt 0xFFFF#16) = .ok (.adcEocForeign .ax1 .ax1 3#2 4095#12) := by decide

theorem witness_IllegalCommandWordOnlySetsTheStatus :
    (withPending State.reset [.write 0x200#20 32 0x23#32]).pending = .write 0x200#20 32 0x23#32 :: [] ∧
      (0x200#20).toNat = axisAddr .ax1 0 ∧
      ([0x04#32, 0x0F#32, 0x12#32, 0x1F#32, 0x23#32, 0x100#32, 0xFFFFFFFF#32].all fun w => decide (w.toNat ∉
        [0x00, 0x01, 0x02, 0x03, 0x10, 0x11, 0x20, 0x21, 0x22])) = true ∧
      (0x4#20).toNat = 0x00004 ∧ (2#32).toNat ∉ [0x00, 0x01] := by decide +kernel

theorem witness_StepRunsTheDecodedInstruction :
    (withPending State.reset [.write 0x100#20 32 0x10#32]).pending = .write 0x100#20 32 0x10#32 :: [] ∧
      (0x100#20).toNat = axisAddr .ax0 0 ∧ decode (.cmd .ax0 0x10#32) = .ok (.focStep .ax0) ∧
      (0x4#20).toNat = 0x00004 ∧ decode (.gcmd 1#32) = .ok .seqStart ∧
      (withPending State.reset [.event 0x2000#16]).pending = .event 0x2000#16 :: [] ∧
      decode (.evt 0x2000#16) = .ok (.adcEocForeign .ax0 .ax0 2#2 0#12) := by decide

/-- The last word before and the first word after each boundary of the map, the width and the alignment. -/
theorem witness_RefusedAccessOnlyAnswersAnError :
    ([0x300#20, 0x3FC#20, 0x800#20, 0xFFFC#20, 0x20000#20, 0xFFFFC#20].any fun k => busAccepts k 32) = false ∧
      busAccepts 0x100#20 16 = false ∧ busAccepts 0x102#20 32 = false ∧
      ([0x000#20, 0x2FC#20, 0x400#20, 0x7FC#20, 0x10000#20, 0x1FFFC#20].all fun k => busAccepts k 32) = true := by
  decide +kernel

theorem witness_ReadsHaveNoSideEffects :
    busAccepts 0x10C#20 32 = true ∧
      (withPending State.reset [.read 0x10C#20 32, .read 0x10C#20 32]).pending =
        .read 0x10C#20 32 :: .read 0x10C#20 32 :: [] := by decide

/-- The first word of the map of axis 0 and the last of axis 1, written and read back through the bus. -/
theorem witness_MapWordReadsBackAsWritten :
    (0x10000#20).toNat = 0x10000 + 0x8000 * Axis.ax0.toNat + 4 * 0 ∧
      (0x1FFFC#20).toNat = 0x10000 + 0x8000 * Axis.ax1.toNat + 4 * 8191 ∧
      (outState (step (outState (step (withPending State.reset
        [.write 0x1FFFC#20 32 0x12345678#32, .read 0x1FFFC#20 32]))))).bus = ⟨false, some 0x12345678#32⟩ := by
  decide +kernel

/-- The first and the last field of the table, the reserved word of its last entry, and the entries beyond it. -/
theorem witness_HarmonicWindowReadsBackItsFields :
    let back := fun (k : BitVec 20) =>
      (outState (step (outState (step (withPending State.reset [.write k 32 7#32, .read k 32]))))).bus.rdata
    (0x400#20).toNat = 0x400 + 0x200 * Axis.ax0.toNat + 16 * 0 + 4 * 0 ∧ back 0x400#20 = some 7#32 ∧
      (0x678#20).toNat = 0x400 + 0x200 * Axis.ax1.toNat + 16 * 7 + 4 * 2 ∧ back 0x678#20 = some 7#32 ∧
      (0x67C#20).toNat = 0x400 + 0x200 * Axis.ax1.toNat + 16 * 7 + 4 * 3 ∧ back 0x67C#20 = some 0#32 ∧
      (0x480#20).toNat = 0x400 + 0x200 * Axis.ax0.toNat + 16 * 8 + 4 * 0 ∧ back 0x480#20 = some 0#32 ∧
      (0x7FC#20).toNat = 0x400 + 0x200 * Axis.ax1.toNat + 16 * 31 + 4 * 3 ∧ back 0x7FC#20 = some 0#32 := by
  decide +kernel

theorem witness_HolesReadZeroAndIgnoreWrites :
    ((0x44#20).toNat = 0x44 ∧ locate 0x44#20 = .hole) ∧ ((0xFC#20).toNat = 0xFC ∧ locate 0xFC#20 = .hole) ∧
      (0x1BC#20).toNat = axisAddr .ax0 0xBC ∧ (0x2BC#20).toNat = axisAddr .ax1 0xBC ∧ locate 0x2BC#20 = .hole := by
  decide +kernel

/-- The read-only clause at its ends; and 10_state.md R51 for `RW`: all ones written to every `RW` register read back but for
the reserved bits. -/
theorem witness_HostWritesActByTheRegisterType :
    let back := fun (k : BitVec 20) => (outState (step (outState (step (withPending State.reset
      [.write k 32 0xFFFFFFFF#32, .read k 32]))))).bus.rdata
    (0x40#20).toNat ∈ [0x00, 0x08, 0x0C, 0x10, 0x14, 0x1C, 0x38, 0x3C, 0x40] ∧ (0x104#20).toNat = axisAddr .ax0 0x04 ∧
      (0x2C0#20).toNat = axisAddr .ax1 0xC0 ∧ (0x2FC#20).toNat = axisAddr .ax1 0xFC ∧
      locate 0x2FC#20 = .axis .ax1 (.tlog 15) ∧
      (0x218#20).toNat = axisAddr .ax1 0x18 ∧ (0x1B4#20).toNat = axisAddr .ax0 0xB4 ∧
      [0x018#20, 0x020#20, 0x1B0#20].map back = [some 7#32, some 0xFFFFFFFF#32, some 1#32] ∧
      [0x194#20, 0x298#20].map back = [some 0xFFFF#32, some 0xFFFF#32] ∧
      ([0x118#20, 0x11C#20, 0x120#20, 0x134#20, 0x148#20, 0x14C#20, 0x150#20, 0x154#20, 0x158#20, 0x25C#20, 0x260#20,
        0x264#20, 0x268#20, 0x26C#20, 0x270#20, 0x274#20, 0x28C#20, 0x290#20, 0x2B4#20].all fun k =>
          decide (back k = some 0xFFFFFFFF#32)) = true := by decide +kernel

/-- A legal and an illegal value at the edge of each range. -/
theorem witness_ConfigurationRegistersTakeOnlyLegalValues :
    (0x24#20).toNat = 0x24 ∧ (0x28#20).toNat = 0x28 ∧ (0x2C#20).toNat = 0x2C ∧ (0x30#20).toNat = 0x30 ∧
      (0x34#20).toNat = 0x34 ∧
      (isFinite 1#32 = true ∧ flt fZero 1#32 = true) ∧ flt fZero 0#32 = false ∧ isFinite 0x7F800000#32 = false ∧
      (fle fZero 0#32 = true ∧ fle 0x3F800000#32 fOne = true) ∧ fle 0x3F800001#32 fOne = false := by decide +kernel

/-- `CPR` at both ends of its range and outside it, disabled and enabled. -/
theorem witness_CprAndPolePairsAreLockedWhileEnabled :
    let cpr := fun (s : State) (v : W32) =>
      ((outState (step (withPending s [.write 0x12C#20 32 v]))).axis .ax0).pll.cpr
    (0x12C#20).toNat = axisAddr .ax0 0x2C ∧ (0x230#20).toNat = axisAddr .ax1 0x30 ∧
      cpr State.reset 1#32 = 1#32 ∧ cpr State.reset 65536#32 = 65536#32 ∧ cpr State.reset 0#32 = 8192#32 ∧
      cpr State.reset 65537#32 = 8192#32 ∧ cpr (exampleA 0#16) 1#32 = 8192#32 := by decide +kernel

/-- `READY` acknowledged; and one of two `ERROR` bits cleared with `irq_fault` still up, then the other, and it falls. -/
theorem witness_StatusAndErrorWritesClearTheNamedBits :
    let s := bothArmed.setSamp .ax0 { (bothArmed.axis .ax0).samp with ready := true, overrun := true }
    let t := outState (step (withPending s [.write 0x10C#20 32 1#32]))
    let e := (orError .ax0 0x201#10 State.reset).setG { State.reset.g with irqEn := 4#3 }
    let e1 := outState (step (withPending e [.write 0x110#20 32 1#32]))
    let e2 := outState (step (withPending e1 [.write 0x110#20 32 0x200#32]))
    (0x10C#20).toNat = axisAddr .ax0 0x0C ∧ (t.axis .ax0).samp.ready = false ∧ (t.axis .ax0).samp.overrun = true ∧
      (0x110#20).toNat = axisAddr .ax0 0x10 ∧ (e1.axis .ax0).ctl.error = 0x200#10 ∧ irqFaultPort e1 = true ∧
      (e2.axis .ax0).ctl.error = 0#10 ∧ irqFaultPort e2 = false := by decide +kernel

/-- A reset delivered to a state whose registers are far from their reset values. -/
theorem witness_ResetRegistersReadTheirResetValues :
    let s := withPending (exampleA 1234#16) [.reset]
    s.pending = .reset :: [] ∧ readAxis s .ax0 .ctrl = 3#32 ∧ readAxis (outState (step s)) .ax0 .ctrl = 0#32 ∧
      readGlobal s .vbus = 0x41C00000#32 ∧ readGlobal (outState (step s)) .vbus = 0#32 := by decide +kernel

theorem exampleA_inv : (exampleA 1234#16).Inv where
  global := ⟨.inr (by decide +kernel), by decide +kernel, by decide +kernel, by decide +kernel, by decide +kernel⟩
  axes a := by
    cases a <;> exact ⟨by decide +kernel, by decide +kernel, by decide +kernel, by decide +kernel, by decide +kernel,
      by decide +kernel⟩
  seq := ⟨by decide +kernel, fun u => by cases u <;> decide +kernel, by decide +kernel, by decide +kernel⟩
  brk := ⟨fun a h => by cases a <;> exact absurd h (by decide +kernel),
    fun _ => ⟨.ax0, by decide +kernel, by decide +kernel⟩⟩
  mem_wf := rfl
  mem_addr c h := nomatch h

/-- The invariant on a state with one axis armed, not reported, and anything pending. -/
theorem witness_invariant (ds : List Delivery) : (withPending (exampleA 1234#16) ds).Inv :=
  have h := exampleA_inv
  ⟨h.global, h.axes, h.seq, ⟨h.brk.1, h.brk.2⟩, h.mem_wf, h.mem_addr⟩

theorem witness_EveryStepKeepsTheInvariant :
    (withPending (exampleA 1234#16) [.write 0x100#20 32 0x10#32]).Inv ∧
      ∃ t, step (withPending (exampleA 1234#16) [.write 0x100#20 32 0x10#32]) = .next t :=
  ⟨witness_invariant _, _, eq_next (by decide +kernel)⟩

theorem witness_PhaseInRange : PhaseInRange 0#32 where
  not_negative := by decide
  below := by decide +kernel
  below_real := by
    rw [show fUnits 0#32 = 0 by decide]
    have := Real.pi_pos
    norm_num
    positivity

theorem witness_ElectricalPhaseStaysBelowTwoPi :
    (1 ≤ ((pllStart id 7#16).axis .ax0).pll.cpr.toNat ∧ ((pllStart id 7#16).axis .ax0).pll.cpr.toNat ≤ 65536) ∧
    (∃ t, exec (.pllInit .ax0) (pllStart id 7#16) = .next t) ∧
    (∃ t, exec (.pllUpdate .ax0) (pllStart id 7#16) = .next t) ∧
    (withPending (exampleA 1234#16) [.write 0x144#20 32 7#32]).Inv ∧
    (∀ a, PhaseInRange ((withPending (exampleA 1234#16) [.write 0x144#20 32 7#32]).axis a).pll.elecPhase) ∧
    (0x144#20).toNat = axisAddr .ax0 0x44 ∧
    ∃ t, step (withPending (exampleA 1234#16) [.write 0x144#20 32 7#32]) = .next t :=
  ⟨by decide +kernel, ⟨_, eq_next (by decide +kernel)⟩, ⟨_, eq_next (by decide +kernel)⟩, witness_invariant _,
    fun a => by cases a <;> exact witness_PhaseInRange, by decide, _, eq_next (by decide +kernel)⟩

theorem witness_BrakeDutyStaysAFraction :
    let s := withPending (exampleA 1234#16) [.write 0x100#20 32 0x10#32]
    s.Inv ∧ fle fZero s.brk.duty = true ∧ fle s.brk.duty fOne = true ∧ ∃ t, step s = .next t :=
  ⟨witness_invariant _, by decide +kernel, by decide +kernel, _, eq_next (by decide +kernel)⟩

/-- An axis armed and one not, and `BRK` with the other axis disabled, armed and reported, armed only. -/
theorem witness_FaultSetsItsBitAndDisarmsTheAxis :
    let s2 := bothArmed.setBrk { duty := 0x3F000000#32, reported := ⟨false, true⟩ }
    let s3 := bothArmed.setBrk { duty := 0x3F000000#32, reported := ⟨true, false⟩ }
    ((exampleA 0#16).axis .ax0).ctl.enable = true ∧ ((exampleA 0#16).axis .ax1).ctl.enable = false ∧
      (fault [.ax0] .modulation (exampleA 0#16)).brk = ⟨0#32, ⟨false, false⟩⟩ ∧
      (fault [.ax0] .modulation s2).brk = ⟨0#32, ⟨false, false⟩⟩ ∧
      (fault [.ax0] .modulation s3).brk = ⟨0x3F000000#32, ⟨false, false⟩⟩ := by decide +kernel

/-- The three clauses: no other axis armed, the other armed and reported, the other armed only. -/
theorem witness_DisarmingRunsTheBrakeAggregation :
    let d : Delivery := .write 0x108#20 32 2#32
    let s2 := bothArmed.setBrk { duty := 0x3F000000#32, reported := ⟨false, true⟩ }
    (0x108#20).toNat = axisAddr .ax0 0x08 ∧ (2#32).getLsbD 0 = false ∧
      ((exampleA 0#16).axis .ax0).ctl.enable = true ∧ (bothArmed.axis .ax1).ctl.enable = true ∧
      (outState (step (withPending (exampleA 0#16) [d]))).brk = ⟨0#32, ⟨false, false⟩⟩ ∧
      (outState (step (withPending s2 [d]))).brk.reported = ⟨false, false⟩ ∧
      (outState (step (withPending bothArmed [d]))).brk = bothArmed.brk := by decide +kernel

theorem witness_EnableRisesOnlyWithNoErrorRecorded :
    (0x208#20).toNat = axisAddr .ax1 0x08 ∧ ((exampleA 0#16).axis .ax1).ctl.enable = false ∧
      (outState (step (withPending (exampleA 0#16) [.write 0x208#20 32 3#32]))).enabled .ax1 = true := by
  decide +kernel

theorem witness_ErrorSetRecordsAndDisarms :
    let t := outState (step (withPending (exampleA 0#16) [.write 0x114#20 32 0x210#32]))
    (0x114#20).toNat = axisAddr .ax0 0x14 ∧ (0x210#32).extractLsb' 0 4 = 0#4 ∧ (8#32).extractLsb' 0 4 ≠ 0#4 ∧
      (t.axis .ax0).ctl.error = 0x210#10 ∧ t.enabled .ax0 = true := by decide +kernel

/-- A recorded bit that a write of 1 to it clears. -/
theorem witness_ErrorBitsAreSticky :
    let s := withPending (orError .ax0 0x200#10 State.reset) [.write 0x110#20 32 0x200#32]
    ∃ t, step s = .next t ∧ (s.axis .ax0).ctl.error.getLsbD 9 = true ∧ (t.axis .ax0).ctl.error.getLsbD 9 = false :=
  ⟨_, eq_next (by decide +kernel), by decide +kernel, by decide +kernel⟩

theorem witness_OnlyAHostWriteArmsAnAxis :
    let s := withPending (exampleA 0#16) [.write 0x208#20 32 1#32]
    ∃ t, step s = .next t ∧ (s.axis .ax1).ctl.enable = false ∧ (t.axis .ax1).ctl.enable = true :=
  ⟨_, eq_next (by decide +kernel), by decide +kernel, by decide +kernel⟩

/-- `RUN` rising, the record set by an event, the record cleared by a reset. -/
theorem witness_OnlySeqStartSetsRun :
    let s0 := withPending State.reset [.write 0x4#20 32 1#32]
    let s1 := withPending (seqStart 0#2) [.event 0x2000#16]
    let s2 := withPending (State.reset.setSeq { State.reset.seq with faultInfo := 0x80100000#32 }) [.reset]
    (s0.seq.run = false ∧ (outState (step s0)).seq.run = true) ∧
      (outState (step s1)).seq.faultInfo ≠ s1.seq.faultInfo ∧ (outState (step s2)).seq.faultInfo ≠ s2.seq.faultInfo := by
  decide +kernel

theorem witness_BrakeReportsCommuteAndFollowTheFormula :
    isNaN 0x7FC00000#32 = true ∧ isNaN 0xFF800001#32 = true ∧ bothArmed.enabled .ax0 = true ∧ bothArmed.enabled .ax1 = true ∧ bothArmed.brk.reported = ⟨false, false⟩ := by
  decide

theorem witness_StoppedSequencerIgnoresEvents : State.reset.seq.run = false := by decide

/-- Each reason: foreign unit, wrong trigger, wrong channel, a completion already in. -/
theorem witness_UnexpectedEventIsASequencingFault :
    let info := fun (s : State) (e : BitVec 16) => (outState (exec (decodeEvt e) s)).seq.faultInfo
    let s1 := markDone .unit1 (seqStart 0#2)
    (seqStart 0#2).seq.run = true ∧ s1.seq.run = true ∧
      info (seqStart 0#2) 0xF000#16 = 0x8010F000#32 ∧ info (seqStart 0#2) 0xC000#16 = 0x8020C000#32 ∧
      info (seqStart 0#2) 0x8000#16 = 0x80308000#32 ∧ info s1 0x1000#16 = 0x80481000#32 := by decide +kernel

theorem witness_ForeignEventStopsTheSequencer : (seqStart 3#2).seq.run = true := by decide

/-- A current state and an offset state, each unit first and second. -/
theorem witness_ExpectedConversionIsFilteredOrStaged :
    ∀ st : BitVec 2, ∀ u1 : Bool,
      let s := seqStart st
      let s2 := markDone (if u1 then .unit0 else .unit1) s
      s.seq.run = true ∧ s2.seq.run = true ∧ s2.seq.state = st ∧
        (if u1 then s.seq.done.unit1 else s.seq.done.unit0) = false ∧
        (if u1 then s2.seq.done.unit1 else s2.seq.done.unit0) = false ∧
        isFinite (s.axis (seqAxis st)).samp.currGain = true ∧ flt fZero (s.axis (seqAxis st)).samp.currGain = true := by
  decide +kernel

/-- An invalid gain, on an axis that is disabled and on one that is armed. -/
theorem witness_InvalidGainDiscardsTheConversion :
    let s := (seqStart 0#2).setSamp .ax0 AxisRegs.reset.samp
    let s1 := s.setCtl .ax0 { (s.axis .ax0).ctl with enable := true }
    s1.seq.run = true ∧ (s1.axis .ax0).ctl.enable = true ∧
      (isFinite (s1.axis .ax0).samp.currGain && flt fZero (s1.axis .ax0).samp.currGain) = false ∧
    s.seq.run = true ∧ Axis.ax0 = seqAxis s.seq.state ∧ s.seq.done.unit0 = false ∧ s.seq.done.unit1 = false ∧
      (isFinite (s.axis .ax0).samp.currGain && flt fZero (s.axis .ax0).samp.currGain) = false := by decide +kernel

theorem witness_FullCycleSignalsEachAxisOnce :
    let s := seqStart 0#2
    s.seq.run = true ∧ s.seq.state = 0#2 ∧ s.seq.done = ⟨false, false⟩ ∧ s.seq.bad = false ∧
      (isFinite (s.axis .ax0).samp.currGain = true ∧ flt fZero (s.axis .ax0).samp.currGain = true) ∧
      (isFinite (s.axis .ax1).samp.currGain = true ∧ flt fZero (s.axis .ax1).samp.currGain = true) ∧
      (s.axis .ax0).samp.ready = false ∧ (s.axis .ax1).samp.ready = false := by decide +kernel

theorem witness_PllInitTakesTheCounterAsOrigin :
    [1#32, 65536#32].map (fun c => ((pllStart (fun r => { r with cpr := c }) 7#16).axis .ax0).pll.cpr.toNat) =
      [1, 65536] := by decide +kernel

/-- The largest motion each way, across the wrap of the counter. -/
theorem witness_UnwrappedPositionIsExact :
    (∀ d ∈ [(32767 : Int), -32768], -32768 ≤ d ∧ d ≤ 32767) ∧
      ∀ k ∈ [0, 1, 2], -2147483648 ≤ ((65535#16).toNat : Int) + (([32767, -32768] : List Int).take k).sum ∧
        ((65535#16).toNat : Int) + (([32767, -32768] : List Int).take k).sum < 2147483648 := by decide

/-- Each branch: a zero bandwidth, an overflow, an unstable gain, an accepted one. -/
theorem witness_PllSetBwStoresOrRefusesTheGains :
    let st := fun b =>
      ((outState (exec (.pllSetBw .ax0) (pllStart (fun r => { r with bw := b }) 0#16))).axis .ax0).ctl.cmdStatus
    isNaN 0x7FC00000#32 = true ∧ st 0#32 = .eArg ∧ st 0x7F000000#32 = .eArg ∧ st 0x457A0000#32 = .eUnstable ∧
      st 0x447A0000#32 = .ok := by decide +kernel

theorem witness_AcceptedGainsReadAsStable :
    ∃ t, exec (.pllSetBw .ax0) (pllStart (fun r => { r with bw := 0x447A0000#32 }) 0#16) = .next t ∧
      (t.axis .ax0).ctl.cmdStatus = .ok :=
  ⟨_, eq_next (by decide +kernel), by decide +kernel⟩

theorem witness_FocPreconditionsRefuseTheStep :
    (State.reset.axis .ax0).ctl.enable = false ∧
      let s := (exampleA 0#16).setG State.reset.g
      (s.axis .ax0).ctl.enable = true ∧ (isFinite s.g.vbus && flt fZero s.g.vbus) = false := by decide +kernel

/-- An armed axis with finite duty fractions, before and at its deadline. -/
theorem witness_FocStepCommitsAndReports :
    let s := exampleA 1999#16
    let v := focCompute s.nanDraw s.g (s.axis .ax0)
    (s.axis .ax0).ctl.enable = true ∧ isFinite s.g.vbus = true ∧ flt fZero s.g.vbus = true ∧
      isNaN v.duties.tA = false ∧ isNaN v.duties.tB = false ∧ isNaN v.duties.tC = false ∧
      (s.pwmCnt.get .ax0).toNat < (s.axis .ax0).pwm.deadline.toNat := by decide +kernel

theorem witness_VoltStepCommitsAndReports :
    let s := exampleA 1999#16
    let d := voltDuties s.nanDraw s.g (s.axis .ax0).foc
    (s.axis .ax0).ctl.enable = true ∧ isFinite s.g.vbus = true ∧ flt fZero s.g.vbus = true ∧
      isNaN d.tA = false ∧ isNaN d.tB = false ∧ isNaN d.tC = false ∧
      (s.pwmCnt.get .ax0).toNat < (s.axis .ax0).pwm.deadline.toNat := by decide +kernel

theorem witness_MissedDeadlineDisarmsAfterTheCommit :
    let s := exampleA 2000#16
    let v := focCompute s.nanDraw s.g (s.axis .ax0)
    let d := voltDuties s.nanDraw s.g (s.axis .ax0).foc
    isNaN d.tA = false ∧ isNaN d.tB = false ∧ isNaN d.tC = false ∧
    (s.axis .ax0).ctl.enable = true ∧ isFinite s.g.vbus = true ∧ flt fZero s.g.vbus = true ∧
      isNaN v.duties.tA = false ∧ isNaN v.duties.tB = false ∧ isNaN v.duties.tC = false ∧
      (s.axis .ax0).pwm.deadline.toNat ≤ (s.pwmCnt.get .ax0).toNat := by decide +kernel

/-- Axis 0 armed, with a NaN test voltage. -/
def nanVoltage : State :=
  (exampleA 0#16).setFoc .ax0 { ((exampleA 0#16).axis .ax0).foc with vBeta := 0x7FC00000#32 }

/-- A NaN sample, and a NaN test voltage with its NaN duty fraction. -/
theorem witness_NaNDutyIsAModulationFault :
    let s := (exampleA 0#16).setSamp .ax0 { ((exampleA 0#16).axis .ax0).samp with sampleB := 0xFFC00000#32 }
    (s.axis .ax0).ctl.enable = true ∧ isFinite s.g.vbus = true ∧ flt fZero s.g.vbus = true ∧
      isNaN (s.axis .ax0).samp.sampleB = true ∧ (nanVoltage.axis .ax0).ctl.enable = true ∧
      nanVoltage.g = s.g ∧ isNaN (nanVoltage.axis .ax0).foc.vBeta = true ∧
      (voltDuties nanVoltage.nanDraw nanVoltage.g (nanVoltage.axis .ax0).foc).anyNaN = true :=
  ⟨by decide +kernel, by decide +kernel, by decide +kernel, by decide +kernel, by decide +kernel, by decide +kernel,
    by decide +kernel, isNaN_svm (fun _ => isNaN_nanDraw _ _) (.inr (isNaN_fmul (isNaN_nanDraw _ _) (.inr (by decide))))⟩

/-- Zero of either sign, one, and values beyond the range, at the largest period. -/
theorem witness_CompareCountStaysWithinThePeriod :
    [0#32, 0x80000000#32, 0x3F800000#32, 0x7F800000#32, 0xFF800000#32].map
      (fun t => (isNaN t, compareCount 0x7FC00000#32 t 0xFFFF#16)) =
    [(false, 0#16), (false, 0#16), (false, 0xFFFF#16), (false, 0xFFFF#16), (false, 0#16)] := by decide +kernel

/-- V-FOC-3 clips; the smallest value that must shrink, and one that does not. -/
theorem witness_ClippedStepDecaysTheIntegrators :
    let r := (exampleA 1234#16).axis .ax0
    let s := (exampleA 1234#16).setFoc .ax0 { r.foc with iqSet := 0x42200000#32, vIntQ := 0x3F000000#32 }
    let v := focCompute s.nanDraw s.g (s.axis .ax0)
    (s.axis .ax0).ctl.enable = true ∧ isFinite s.g.vbus = true ∧ flt fZero s.g.vbus = true ∧ v.sat = true ∧
      isNaN v.duties.tA = false ∧ isNaN v.duties.tB = false ∧ isNaN v.duties.tC = false ∧
      isFinite 64#32 = true ∧ fUnits 64#32 = 64 ∧ fmul 0#32 64#32 fDecay = 63#32 ∧ fmul 0#32 32#32 fDecay = 32#32 := by
  decide +kernel

theorem witness_FocStepWorkedExample :
    let s := exampleA 1234#16
    let r := s.axis .ax0
    (r.ctl.enable = true ∧ r.ctl.phaseSrc = true ∧ r.foc.phaseExt = 0#32 ∧ r.samp.sampleB = 0xBF000000#32 ∧
      r.samp.sampleC = 0xBF000000#32 ∧ r.foc.idSet = 0#32 ∧ r.foc.iqSet = 0x40000000#32 ∧
      r.foc.kpI = 0x3F000000#32 ∧ r.foc.kiI = 0x42C80000#32 ∧ r.foc.vIntD = 0#32 ∧ r.foc.vIntQ = 0#32) ∧
    s.g.vbus = 0x41C00000#32 ∧ s.g.t = 0x3903126F#32 ∧ s.g.modLimitFrac = 0x3E4CCCCD#32 ∧ r.pwm.period = 4000#16 ∧
      r.pwm.deadline = 2000#16 ∧ s.pwmCnt.get .ax0 = 1234#16 ∧
      [AxReg.idMeas, .iqMeas, .modD, .modQ, .tlast].map (readAxis (outState (exec (.focStep .ax0) s)) .ax0) =
        [0x3F800000#32, 0#32, 0xBD000000#32, 0x3D800000#32, 1234#32] := by decide +kernel

/-- The branches of a lookup: an unusable map, positions at the edges of 32 bits, a `CPR` beyond the map. -/
theorem witness_LookupReadsTheMapAtTheWrappedPosition :
    let st := fun (valid : Bool) (cpr : W32) (pos : F32) =>
      let s := pllStart (fun r => { r with cpr := cpr }) 0#16
      let s1 := s.setAcog .ax0 { (s.axis .ax0).acog with mapValid := valid, pos := pos }
      ((outState (exec (.acogLookup .ax0) s1)).axis .ax0).ctl.cmdStatus
    st false 1#32 0x7F800000#32 = .ok ∧ st true 1#32 0x7F800000#32 = .eArg ∧ st true 1#32 0x4F000000#32 = .eArg ∧
      st true 1#32 0xCF000000#32 = .ok ∧ st true 1#32 0xCF000001#32 = .eArg ∧ st true 8193#32 0#32 = .eSize := by
  decide +kernel

/-- The supported lengths at both ends, and lengths beside them. -/
theorem witness_supportedSizes :
    (List.range 40).filter supportedSize = [4, 8, 16, 32] ∧ supportedSize 8192 = true ∧ supportedSize 16384 = false ∧
      supportedSize 8191 = false := by decide +kernel

theorem witness_SelectionKeepsTheStrongestBins :
    (selectHarmonics (fun _ => 1) 8 ((List.range 8).map fun k => (i2f k, fZero))).map Harmonic.index =
      [3#32, 2#32, 1#32, 0#32, 0#32, 0#32, 0#32, 0#32] := by decide +kernel

theorem witness_SmallRoundTripIsExact :
    let m : Fin 4 → Int := fun n => [-1000000, 3, 1000000, 0].getD n.val 0
    let s := mapStart (i2f (-1000000)) (i2f 3) (i2f 1000000) (i2f 0)
    (s.axis .ax0).pll.cpr = 4#32 ∧ (∀ n, |m n| ≤ 1000000) ∧ ∀ n : Fin 4, s.mapEntry .ax0 n.val = i2f (m n) := by
  decide +kernel

/-- Operands of each clause, the smallest subnormal, both zeros, both infinities and a NaN among them. -/
theorem witness_ArithmeticIsCorrectlyRounded :
    fadd 0x7FC00000#32 1#32 0x80000001#32 = 0#32 ∧ fadd 0x7FC00000#32 0x80000000#32 0x80000000#32 = 0x80000000#32 ∧
      isInf 0x7F800000#32 = true ∧ isInf 0xFF800000#32 = true ∧ isNaN 0x7F800001#32 = true ∧
      fadd 0x7FC00000#32 0x7F800000#32 0xFF800000#32 = 0x7FC00000#32 ∧
      fdiv 0x7FC00000#32 0xBF800000#32 0x7F800000#32 = 0x80000000#32 ∧
    isFinite 1#32 = true ∧ isFinite 0xFF7FFFFF#32 = true ∧ fInt 1#32 + fInt 0xFF7FFFFF#32 ≠ 0 ∧ fUnits 1#32 ≠ 0 := by
  decide +kernel

theorem witness_SquareRootIsCorrectlyRounded :
    isFinite 1#32 = true ∧ fSign 1#32 = false ∧ 0 < fUnits 1#32 ∧ fsqrt 0#32 1#32 = 0x1A3504F3#32 := by decide +kernel

/-- `z = (1, 2, 3, 4)`, and `z = (4, 0, 0, 0)` for the inverse. -/
theorem witness_TransformsHaveTheirProperties :
    exactDft4 ([1, 2, 3, 4].map fun n => (i2f n, fZero)) =
        some ([(10, 0), (-2, 2), (-2, 0), (-2, -2)].map fun p => (p.1 * 2 ^ 149, p.2 * 2 ^ 149)) ∧
      exactIdft4 [(i2f 4, fZero), (fZero, fZero), (fZero, fZero), (fZero, fZero)] =
        some (List.replicate 4 (2 ^ 149, 0)) := by decide +kernel

/-- Two states that differ in the other axis's registers only. -/
theorem witness_CommandsOfOneAxisDoNotTouchTheOther :
    let s := exampleA 1234#16
    let s' := s.setFoc .ax1 { (s.axis .ax1).foc with iqSet := 0x3F800000#32 }
    commandAxis (.focStep .ax0) = some .ax0 ∧ State.AgreeFor .ax0 s s' ∧ 1 ≤ (s.axis .ax0).pll.cpr.toNat :=
  ⟨rfl, ⟨rfl, rfl, rfl, rfl, rfl, fun _ _ => rfl, rfl, rfl, rfl⟩, by decide⟩

end Sys2Proof.Tests
end

section
/-!
PROOFS. O58: the sine and cosine of 00_scope.md R27.
-/

namespace Sys2Proof.Proofs
open Sys2Proof Sys2Proof.Machine

/-- What it takes to lie in `[-1.0, 1.0]` (SC1 of 00_scope.md R27). -/
structure InUnit (y : F32) : Prop where
  finite : isFinite y = true
  le_one : fle y fOne = true
  ge_neg_one : fle 0xBF800000#32 y = true

theorem inUnit_fZero : InUnit fZero := ⟨by decide, by decide, by decide⟩

theorem inUnit_fOne : InUnit fOne := ⟨by decide, by decide, by decide⟩

/-- A value between `-1.0` and `1.0` has the magnitude field of `1.0` at most, so it is finite. -/
theorem isFinite_of_fle_one {y : F32} (hle : fle y fOne = true) (hge : fle 0xBF800000#32 y = true) :
    isFinite y = true := by
  have h1 : fKey fOne = 0x3F800000 := by decide
  have h2 : fKey 0xBF800000#32 = -0x3F800000 := by decide
  simp only [fle, Bool.and_eq_true, decide_eq_true_eq, h1, h2] at hle hge
  obtain ⟨-, hle⟩ := hle
  obtain ⟨-, hge⟩ := hge
  simp only [isFinite, decide_eq_true_eq]
  cases hs : fSign y <;> simp only [fKey, hs, if_true, if_false, Bool.false_eq_true] at hle hge <;> omega

theorem inUnit_asUnit (r : F32) : InUnit (asUnit r) := by
  unfold asUnit
  split
  next h =>
    obtain ⟨hle, hge⟩ := Bool.and_eq_true_iff.mp h
    have hge' : fle 0xBF800000#32 r = true := hge
    exact ⟨isFinite_of_fle_one hle hge', hle, hge'⟩
  next => exact inUnit_fZero

theorem inUnit_sinF {x : F32} (h : isFinite x = true) : InUnit (sinF x) := by
  rw [sinF, if_pos h]
  split
  next => exact inUnit_fZero
  next => exact inUnit_asUnit _

theorem inUnit_cosF {x : F32} (h : isFinite x = true) : InUnit (cosF x) := by
  rw [cosF, if_pos h]
  split
  next => exact inUnit_fOne
  next => exact inUnit_asUnit _

theorem ne_fZero_of_not_isFinite {x : F32} (h : isFinite x = false) : x ≠ fZero := by
  rintro rfl
  simp at h

theorem isNaN_sinF {x : F32} (h : isFinite x = false) : isNaN (sinF x) = true := by
  simp [sinF, ne_fZero_of_not_isFinite h, h]

theorem isNaN_cosF {x : F32} (h : isFinite x = false) : isNaN (cosF x) = true := by
  simp [cosF, ne_fZero_of_not_isFinite h, h]

/-- Settles O58: SC0 by the first branch of each function, SC1 by `asUnit`, SC2 by `asNaN`. -/
theorem sineAndCosineHaveTheirProperties : Obligations.SineAndCosineHaveTheirProperties := by
  refine ⟨if_pos rfl, if_pos rfl, fun x hx => ?_, fun x hx => ⟨isNaN_sinF hx, isNaN_cosF hx⟩⟩
  obtain ⟨hs, hs1, hs2⟩ := inUnit_sinF hx
  obtain ⟨hc, hc1, hc2⟩ := inUnit_cosF hx
  exact ⟨hs, hs1, hs2, hc, hc1, hc2⟩

end Sys2Proof.Proofs
end

section
/-!
PROOFS. O56: the one rounding of the arithmetic (00_scope.md R17) sends an exact value to the nearer of the two magnitude
fields around it, and what sums, products and quotients are by it.
-/

namespace Sys2Proof.Proofs
open Sys2Proof Sys2Proof.Machine

/-! ### The value of a magnitude field -/

/-- The value of a field written as a unit exponent `sh` and a significand `t`, as `roundMag` writes it: subnormals (`sh = 0`),
normals and the carry into the next binade (`t = 2^24`) alike. -/
theorem magValue_mul_add {sh t : Nat} (ht : t ≤ 2 ^ 24) (hsh : sh = 0 ∨ 2 ^ 23 ≤ t) :
    magValue (sh * 0x800000 + t) = t * 2 ^ sh := by
  unfold magValue
  rcases lt_or_ge t (2 ^ 23) with h | h
  · obtain rfl : sh = 0 := by omega
    simp only [Nat.zero_mul, Nat.zero_add, pow_zero, Nat.mul_one]
    exact if_pos (by omega)
  rcases ht.eq_or_lt with rfl | ht
  · rw [if_neg (by omega), show (sh * 0x800000 + 2 ^ 24) / 0x800000 - 1 = sh + 1 by omega,
      show (sh * 0x800000 + 2 ^ 24) % 0x800000 = 0 by omega, pow_succ]
    ring
  · rw [if_neg (by omega), show (sh * 0x800000 + t) / 0x800000 - 1 = sh by omega,
      show 0x800000 + (sh * 0x800000 + t) % 0x800000 = t by omega]

/-- Every field has such a unit exponent and significand. -/
theorem exists_exponent_significand (m : Nat) :
    ∃ sh t, m = sh * 0x800000 + t ∧ t < 2 ^ 24 ∧ (sh = 0 ∨ 2 ^ 23 ≤ t) :=
  ⟨m / 0x800000 - 1, m - (m / 0x800000 - 1) * 0x800000, by omega, by omega, by omega⟩

/-- A greater field is a greater value, infinity's field standing for `2^277` units. -/
theorem magValue_strictMono : StrictMono magValue := by
  refine strictMono_nat_of_lt_succ fun m => ?_
  obtain ⟨sh, t, rfl, ht, hsh⟩ := exists_exponent_significand m
  rw [Nat.add_assoc, magValue_mul_add ht.le hsh, magValue_mul_add ht (by omega)]
  exact Nat.mul_lt_mul_of_pos_right t.lt_succ_self (by positivity)

/-- From the second normal binade on every value is an even number of units. -/
theorem two_dvd_magValue {m : Nat} (h : 2 ^ 24 ≤ m) : 2 ∣ magValue m := by
  rw [magValue, if_neg (by omega)]
  exact Dvd.dvd.mul_left (dvd_pow_self 2 (by omega)) _

theorem magValue_eq_zero {m : Nat} : magValue m = 0 ↔ m = 0 :=
  magValue_strictMono.injective.eq_iff (b := 0)

/-- The magnitude of a value is the value of its field. -/
theorem fUnits_eq_magValue (x : F32) : fUnits x = magValue (fMag x) := rfl

/-- Only the two zeros have no magnitude (00_scope.md R16). -/
theorem fUnits_eq_zero {x : F32} : fUnits x = 0 ↔ fMag x = 0 := magValue_eq_zero

/-! ### The one rounding (00_scope.md R17) -/

/-- The exponent of the unit in the last place that `roundMag` rounds `n / d` to. -/
def ulpExp (n d : Nat) : Nat := Nat.log2 (n / d) + 1 - 24

/-- The field of the greatest value not above `n / d` units. -/
def lowerField (n d : Nat) : Nat := ulpExp n d * 0x800000 + n / (d * 2 ^ ulpExp n d)

/-- The next field is the nearer one, or as near and even. -/
def RoundsUp (n d : Nat) : Prop :=
  magValue (lowerField n d) * d + magValue (lowerField n d + 1) * d < 2 * n ∨
    magValue (lowerField n d) * d + magValue (lowerField n d + 1) * d = 2 * n ∧ lowerField n d % 2 = 1

theorem significand_lt (n d : Nat) : n / (d * 2 ^ ulpExp n d) < 2 ^ 24 := by
  rw [← Nat.div_div_eq_div_mul, Nat.div_lt_iff_lt_mul (by positivity), ← pow_add]
  exact Nat.lt_log2_self.trans_le (Nat.pow_le_pow_right (by decide) (by unfold ulpExp; omega))

theorem significand_normal (n d : Nat) : ulpExp n d = 0 ∨ 2 ^ 23 ≤ n / (d * 2 ^ ulpExp n d) := by
  by_cases h : ulpExp n d = 0
  · exact .inl h
  have hq : n / d ≠ 0 := fun h0 => h (by rw [ulpExp, h0]; rfl)
  refine .inr ?_
  rw [← Nat.div_div_eq_div_mul, Nat.le_div_iff_mul_le (by positivity), ← pow_add]
  calc 2 ^ (23 + ulpExp n d) = 2 ^ Nat.log2 (n / d) := by congr 1; unfold ulpExp at *; omega
    _ ≤ n / d := Nat.log2_self_le hq

theorem magValue_lowerField (n d : Nat) :
    magValue (lowerField n d) = n / (d * 2 ^ ulpExp n d) * 2 ^ ulpExp n d :=
  magValue_mul_add (significand_lt n d).le (significand_normal n d)

theorem magValue_lowerField_succ (n d : Nat) :
    magValue (lowerField n d + 1) = (n / (d * 2 ^ ulpExp n d) + 1) * 2 ^ ulpExp n d := by
  rw [lowerField, Nat.add_assoc]
  exact magValue_mul_add (significand_lt n d) ((significand_normal n d).imp_right Nat.le_succ_of_le)

theorem magValue_lowerField_mul_le (n d : Nat) : magValue (lowerField n d) * d ≤ n := by
  rw [magValue_lowerField, Nat.mul_assoc, Nat.mul_comm _ d]
  exact Nat.div_mul_le_self _ _

theorem lt_magValue_lowerField_succ_mul (n : Nat) {d : Nat} (hd : 0 < d) : n < magValue (lowerField n d + 1) * d := by
  rw [magValue_lowerField_succ, Nat.mul_assoc, Nat.mul_comm _ d, Nat.mul_comm]
  exact Nat.lt_mul_div_succ n (by positivity)

/-- The rounding goes to one of the two fields around the exact value, and stops at infinity. -/
theorem roundMag_eq (n d : Nat) [Decidable (RoundsUp n d)] :
    roundMag n d = min (if RoundsUp n d then lowerField n d + 1 else lowerField n d) 0x7F800000 := by
  have hu : RoundsUp n d ↔ d * 2 ^ ulpExp n d < 2 * (n % (d * 2 ^ ulpExp n d)) ∨
      2 * (n % (d * 2 ^ ulpExp n d)) = d * 2 ^ ulpExp n d ∧ n / (d * 2 ^ ulpExp n d) % 2 = 1 := by
    have hn := Nat.div_add_mod n (d * 2 ^ ulpExp n d)
    have hl : magValue (lowerField n d) * d = d * 2 ^ ulpExp n d * (n / (d * 2 ^ ulpExp n d)) := by
      rw [magValue_lowerField]; ring
    have hr : magValue (lowerField n d + 1) * d =
        d * 2 ^ ulpExp n d * (n / (d * 2 ^ ulpExp n d)) + d * 2 ^ ulpExp n d := by
      rw [magValue_lowerField_succ]; ring
    rw [RoundsUp, hl, hr, lowerField]
    generalize d * 2 ^ ulpExp n d * (n / (d * 2 ^ ulpExp n d)) = a at hn ⊢
    omega
  have hr : roundMag n d = min (ulpExp n d * 0x800000 +
      if d * 2 ^ ulpExp n d < 2 * (n % (d * 2 ^ ulpExp n d)) ∨
        2 * (n % (d * 2 ^ ulpExp n d)) = d * 2 ^ ulpExp n d ∧ n / (d * 2 ^ ulpExp n d) % 2 = 1
      then n / (d * 2 ^ ulpExp n d) + 1 else n / (d * 2 ^ ulpExp n d)) 0x7F800000 := rfl
  rw [hr]
  simp only [hu, lowerField]
  split
  · rw [Nat.add_assoc]
  · rfl

/-! ### Nearness to one of two neighbours -/

section Nearness
variable {α : Type} [CommRing α] [LinearOrder α] [IsStrictOrderedRing α] {a b v x : α}

/-- In the lower half between two neighbours `a < b`, nothing outside the gap is nearer than `a`. -/
theorem abs_sub_le_of_lower_half (hav : a ≤ v) (hv : 2 * v ≤ a + b) (hx : x ≤ a ∨ b ≤ x) : |a - v| ≤ |x - v| := by
  rw [abs_of_nonpos (by linarith)]
  rcases hx with hx | hx
  · exact le_abs.mpr (.inr (by linarith))
  · exact le_abs.mpr (.inl (by linarith))

/-- In the upper half, nothing outside the gap is nearer than `b`. -/
theorem abs_sub_le_of_upper_half (hvb : v ≤ b) (hv : a + b ≤ 2 * v) (hx : x ≤ a ∨ b ≤ x) : |b - v| ≤ |x - v| := by
  rw [abs_of_nonneg (by linarith)]
  rcases hx with hx | hx
  · exact le_abs.mpr (.inr (by linarith))
  · exact le_abs.mpr (.inl (by linarith))

/-- Something outside the gap is as near as `a` only where `v` is the midpoint. -/
theorem midpoint_of_tie_lower (hav : a ≤ v) (hv : 2 * v ≤ a + b) (hx : x < a ∨ b ≤ x) (h : |a - v| = |x - v|) :
    a + b = 2 * v := by
  rw [abs_of_nonpos (by linarith)] at h
  rcases hx with hx | hx
  · linarith [neg_le_abs (x - v)]
  · linarith [abs_of_nonneg (show 0 ≤ x - v by linarith)]

/-- Something outside the gap is as near as `b` only where `v` is the midpoint. -/
theorem midpoint_of_tie_upper (hvb : v ≤ b) (hv : a + b ≤ 2 * v) (hx : x ≤ a ∨ b < x) (h : |b - v| = |x - v|) :
    a + b = 2 * v := by
  rw [abs_of_nonneg (by linarith)] at h
  rcases hx with hx | hx
  · linarith [abs_of_nonpos (show x - v ≤ 0 by linarith)]
  · linarith [le_abs_self (x - v)]

end Nearness

/-! ### The one rounding is IEEE 754's -/

theorem roundMag_of_roundsUp {n d : Nat} (h : RoundsUp n d) : roundMag n d = min (lowerField n d + 1) 0x7F800000 := by
  classical rw [roundMag_eq, if_pos h]

theorem roundMag_of_not_roundsUp {n d : Nat} (h : ¬RoundsUp n d) : roundMag n d = min (lowerField n d) 0x7F800000 := by
  classical rw [roundMag_eq, if_neg h]

theorem roundMag_eq_succ {n d : Nat} (h : RoundsUp n d) (hfin : roundMag n d < 0x7F800000) :
    roundMag n d = lowerField n d + 1 := by
  rw [roundMag_of_roundsUp h] at *; omega

theorem roundMag_eq_lowerField {n d : Nat} (h : ¬RoundsUp n d) (hfin : roundMag n d < 0x7F800000) :
    roundMag n d = lowerField n d := by
  rw [roundMag_of_not_roundsUp h] at *; omega

/-- No value lies strictly between two neighbouring fields' values. -/
theorem magValue_le_or_succ_le (m k : Nat) : magValue k ≤ magValue m ∨ magValue (m + 1) ≤ magValue k := by
  simp only [magValue_strictMono.le_iff_le]
  omega

/-- The greatest finite value, half a unit in the last place below the overflow threshold. -/
theorem magValue_maxFinite : magValue 0x7F7FFFFF = (2 ^ 24 - 1) * 2 ^ 253 := by norm_num [magValue]

/-- What infinity's field stands for as a neighbour, half a unit in the last place above the threshold. -/
theorem magValue_infinity : magValue 0x7F800000 = 2 ^ 24 * 2 ^ 253 := by norm_num [magValue]

/-- The rounding overflows exactly from half a unit above the greatest finite value on. -/
theorem roundMag_eq_infinity_iff (n : Nat) {d : Nat} (hd : 0 < d) :
    roundMag n d = 0x7F800000 ↔ d * ((2 ^ 25 - 1) * 2 ^ 252) ≤ n := by
  have hle := magValue_lowerField_mul_le n d
  have hlt := lt_magValue_lowerField_succ_mul n hd
  rcases lt_trichotomy (lowerField n d) 0x7F7FFFFF with hL | hL | hL
  · have hB : magValue (lowerField n d + 1) * d ≤ (2 ^ 24 - 1) * 2 ^ 253 * d := by
      rw [← magValue_maxFinite]
      exact Nat.mul_le_mul_right d (magValue_strictMono.le_iff_le.mpr hL)
    have hm : roundMag n d ≠ 0x7F800000 := by
      by_cases h : RoundsUp n d
      · rw [roundMag_of_roundsUp h]; omega
      · rw [roundMag_of_not_roundsUp h]; omega
    exact iff_of_false hm (by omega)
  · have hA : magValue (lowerField n d) = (2 ^ 24 - 1) * 2 ^ 253 := by rw [hL, magValue_maxFinite]
    have hB : magValue (lowerField n d + 1) = 2 ^ 24 * 2 ^ 253 := by rw [hL, ← magValue_infinity]
    have hup : RoundsUp n d ↔ d * ((2 ^ 25 - 1) * 2 ^ 252) ≤ n := by
      rw [RoundsUp, hA, hB, hL]; omega
    rw [← hup]
    by_cases h : RoundsUp n d
    · simp [roundMag_of_roundsUp h, h, hL]
    · simp [roundMag_of_not_roundsUp h, h, hL]
  · have hA : 2 ^ 24 * 2 ^ 253 * d ≤ magValue (lowerField n d) * d := by
      rw [← magValue_infinity]
      exact Nat.mul_le_mul_right d (magValue_strictMono.le_iff_le.mpr hL)
    have hm : roundMag n d = 0x7F800000 := by
      by_cases h : RoundsUp n d
      · rw [roundMag_of_roundsUp h]; omega
      · rw [roundMag_of_not_roundsUp h]; omega
    exact iff_of_true hm (by omega)

/-- `roundMag` is the rounding to nearest, ties to even (00_scope.md R17). -/
theorem nearestEven_roundMag (n : Nat) {d : Nat} (hd : 0 < d) : NearestEven n d (roundMag n d) := by
  have hle : ((magValue (lowerField n d) * d : Nat) : Int) ≤ n := by exact_mod_cast magValue_lowerField_mul_le n d
  have hlt : (n : Int) ≤ (magValue (lowerField n d + 1) * d : Nat) := by
    exact_mod_cast (lt_magValue_lowerField_succ_mul n hd).le
  have hout (k : Nat) : ((magValue k * d : Nat) : Int) ≤ (magValue (lowerField n d) * d : Nat) ∨
      ((magValue (lowerField n d + 1) * d : Nat) : Int) ≤ (magValue k * d : Nat) := by
    exact_mod_cast (magValue_le_or_succ_le (lowerField n d) k).imp (Nat.mul_le_mul_right d) (Nat.mul_le_mul_right d)
  have hne {k m : Nat} (h : k ≠ m) : ((magValue k * d : Nat) : Int) ≠ (magValue m * d : Nat) := by
    exact_mod_cast fun he => h (magValue_strictMono.injective (Nat.eq_of_mul_eq_mul_right hd he))
  by_cases h : RoundsUp n d
  · have hhalf : ((magValue (lowerField n d) * d : Nat) : Int) + (magValue (lowerField n d + 1) * d : Nat) ≤ 2 * n := by
      unfold RoundsUp at h; omega
    refine ⟨roundMag_le n d, roundMag_eq_infinity_iff n hd, fun hfin k _ => ?_, fun hfin k _ hk htie => ?_⟩
    · rw [roundMag_eq_succ h hfin]
      exact abs_sub_le_of_upper_half hlt hhalf (hout k)
    · rw [roundMag_eq_succ h hfin] at hk htie ⊢
      have hmid := midpoint_of_tie_upper hlt hhalf ((hout k).imp_right fun hb => lt_of_le_of_ne hb (hne hk).symm) htie
      unfold RoundsUp at h; omega
  · have hhalf : 2 * (n : Int) ≤ (magValue (lowerField n d) * d : Nat) + (magValue (lowerField n d + 1) * d : Nat) := by
      unfold RoundsUp at h; omega
    refine ⟨roundMag_le n d, roundMag_eq_infinity_iff n hd, fun hfin k _ => ?_, fun hfin k _ hk htie => ?_⟩
    · rw [roundMag_eq_lowerField h hfin]
      exact abs_sub_le_of_lower_half hle hhalf (hout k)
    · rw [roundMag_eq_lowerField h hfin] at hk htie ⊢
      have hmid := midpoint_of_tie_lower hle hhalf ((hout k).imp_left fun ha => lt_of_le_of_ne ha (hne hk)) htie
      unfold RoundsUp at h; omega

/-! ### Sums, products and quotients of finite values -/

theorem roundMag_lt (n d : Nat) : roundMag n d < 0x80000000 := (roundMag_le n d).trans_lt (by decide)

theorem fadd_of_isFinite_of_sum_ne_zero {x y : F32} (hx : isFinite x = true) (hy : isFinite y = true)
    (h : fInt x + fInt y ≠ 0) (nan : F32) :
    NearestEven (fInt x + fInt y).natAbs 1 (fMag (fadd nan x y)) ∧
      fSign (fadd nan x y) = decide (fInt x + fInt y < 0) := by
  rw [fadd_of_isFinite hx hy, if_neg h, fOfUnits, fMag_fPack (roundMag_lt _ _), fSign_fPack (roundMag_lt _ _)]
  exact ⟨nearestEven_roundMag _ Nat.one_pos, rfl⟩

theorem fadd_of_isFinite_of_sum_eq_zero {x y : F32} (hx : isFinite x = true) (hy : isFinite y = true)
    (h : fInt x + fInt y = 0) (nan : F32) : fadd nan x y = fPack (fSign x && fSign y) 0 := by
  rw [fadd_of_isFinite hx hy, if_pos h]

theorem nearestEven_fmul {x y : F32} (hx : isFinite x = true) (hy : isFinite y = true) (nan : F32) :
    NearestEven (fUnits x * fUnits y) (2 ^ 149) (fMag (fmul nan x y)) ∧
      fSign (fmul nan x y) = (fSign x != fSign y) := by
  rw [fmul_of_isFinite hx hy, fMag_fPack (roundMag_lt _ _), fSign_fPack (roundMag_lt _ _)]
  exact ⟨nearestEven_roundMag _ (by positivity), rfl⟩

theorem nearestEven_fdiv {x y : F32} (hx : isFinite x = true) (hy : isFinite y = true) (h0 : fUnits y ≠ 0)
    (nan : F32) :
    NearestEven (fUnits x * 2 ^ 149) (fUnits y) (fMag (fdiv nan x y)) ∧
      fSign (fdiv nan x y) = (fSign x != fSign y) := by
  rw [fdiv_of_isFinite hx hy (mt fUnits_eq_zero.mpr h0), fMag_fPack (roundMag_lt _ _), fSign_fPack (roundMag_lt _ _)]
  exact ⟨nearestEven_roundMag _ (Nat.pos_of_ne_zero h0), rfl⟩

/-- A division by zero is infinite, unless the dividend is a zero too (00_scope.md R19). -/
theorem fdiv_zero_of_isFinite {x y : F32} (hx : isFinite x = true) (hy : isFinite y = true) (hx0 : fMag x ≠ 0)
    (hy0 : fMag y = 0) (nan : F32) : fdiv nan x y = fPack (fSign x != fSign y) 0x7F800000 := by
  simp [fdiv, isNaN_of_isFinite hx, isNaN_of_isFinite hy, isInf_of_isFinite hx, hx0, hy0]

theorem fdiv_zero_zero {x y : F32} (hx : isFinite x = true) (hy : isFinite y = true) (hx0 : fMag x = 0)
    (hy0 : fMag y = 0) (nan : F32) : fdiv nan x y = nan := by
  simp [fdiv, isNaN_of_isFinite hx, isNaN_of_isFinite hy, hx0, hy0]

/-! ### Infinite operands and NaNs -/

theorem isInf_iff {x : F32} : isInf x = true ↔ fMag x = 0x7F800000 := decide_eq_true_iff

theorem isNaN_of_isInf {x : F32} (h : isInf x = true) : isNaN x = false := by
  simp [isNaN, isInf_iff.mp h]

/-- Two infinities of the same sign are one value. -/
theorem fSign_ne_of_isInf {x y : F32} (hx : isInf x = true) (hy : isInf y = true) (h : y ≠ x) : fSign x ≠ fSign y :=
  fun hs => h (f32_ext hs.symm ((isInf_iff.mp hy).trans (isInf_iff.mp hx).symm))

theorem fadd_inf_left {x y : F32} (hx : isInf x = true) (hy : isFinite y = true ∨ y = x) (nan : F32) :
    fadd nan x y = x := by
  rcases hy with hy | rfl
  · simp [fadd, isNaN_of_isInf hx, isNaN_of_isFinite hy, hx, isInf_of_isFinite hy]
  · simp [fadd, isNaN_of_isInf hx, hx]

theorem fadd_inf_right {x y : F32} (hx : isInf x = true) (hy : isFinite y = true) (nan : F32) :
    fadd nan y x = x := by
  simp [fadd, isNaN_of_isInf hx, isNaN_of_isFinite hy, hx, isInf_of_isFinite hy]

theorem fadd_inf_opposite {x y : F32} (hx : isInf x = true) (hy : isInf y = true) (h : y ≠ x) (nan : F32) :
    fadd nan x y = nan := by
  simp [fadd, isNaN_of_isInf hx, isNaN_of_isInf hy, hx, hy, fSign_ne_of_isInf hx hy h]

/-- A product does not depend on the order of its operands. -/
theorem fmul_comm (nan x y : F32) : fmul nan x y = fmul nan y x := by
  have hs : (fSign x != fSign y) = (fSign y != fSign x) := Bool.xor_comm _ _
  have hz : ((isInf x && fMag y == 0) || (fMag x == 0 && isInf y)) =
      ((isInf y && fMag x == 0) || (fMag y == 0 && isInf x)) := by
    rw [Bool.or_comm, Bool.and_comm (fMag x == 0), Bool.and_comm (isInf x)]
  rw [fmul, fmul, Bool.or_comm (isNaN x), hz, Bool.or_comm (isInf x), hs, Nat.mul_comm]

theorem fmul_inf_left {x y : F32} (hx : isInf x = true) (hy : isNaN y = false) (h0 : fMag y ≠ 0) (nan : F32) :
    fmul nan x y = fPack (fSign x != fSign y) 0x7F800000 := by
  simp [fmul, isNaN_of_isInf hx, hy, hx, h0, isInf_iff.mp hx]

theorem fmul_inf_zero {x y : F32} (hx : isInf x = true) (h0 : fMag y = 0) (nan : F32) : fmul nan x y = nan := by
  simp [fmul, hx, h0]

theorem fdiv_inf_left {x y : F32} (hx : isInf x = true) (hy : isFinite y = true) (nan : F32) :
    fdiv nan x y = fPack (fSign x != fSign y) 0x7F800000 := by
  simp [fdiv, isNaN_of_isInf hx, isNaN_of_isFinite hy, hx, isInf_of_isFinite hy, isInf_iff.mp hx]

theorem fdiv_inf_right {x y : F32} (hx : isInf x = true) (hy : isFinite y = true) (nan : F32) :
    fdiv nan y x = fPack (fSign y != fSign x) 0 := by
  simp [fdiv, isNaN_of_isInf hx, isNaN_of_isFinite hy, hx, isInf_of_isFinite hy, isInf_iff.mp hx]

theorem fdiv_inf_inf {x y : F32} (hx : isInf x = true) (hy : isInf y = true) (nan : F32) : fdiv nan x y = nan := by
  simp [fdiv, hx, hy]

theorem isInf_fPack (neg : Bool) : isInf (fPack neg 0x7F800000) = true := isInf_iff.mpr (fMag_fPack (by decide))

/-- Every operation with a NaN answers the free NaN (00_scope.md R24). -/
theorem eq_nan_of_isNaN {x y : F32} (h : isNaN x = true ∨ isNaN y = true) (nan : F32) :
    fadd nan x y = nan ∧ fmul nan x y = nan ∧ fdiv nan x y = nan := by
  have h : (isNaN x || isNaN y) = true := by simpa using h
  exact ⟨if_pos h, if_pos h, if_pos h⟩

/-- Settles O56: each operation on finite operands is one `roundMag` of the exact result, which `nearestEven_roundMag` shows
to be IEEE 754's rounding; infinite operands and NaNs are the branches before it. -/
theorem arithmeticIsCorrectlyRounded : Obligations.ArithmeticIsCorrectlyRounded := by
  refine ⟨fun n d => nearestEven_roundMag n, fun nan x y hx hy => ?finite, fun nan x y hx => ?infinite,
    fun nan x y h => eq_nan_of_isNaN h nan⟩
  case finite =>
    refine ⟨fun h => fadd_of_isFinite_of_sum_ne_zero hx hy h nan, fun h => ?_, nearestEven_fmul hx hy nan,
      fun h => nearestEven_fdiv hx hy h nan, fun hx0 hy0 => ?_,
      fun hx0 hy0 => fdiv_zero_zero hx hy (fUnits_eq_zero.mp hx0) (fUnits_eq_zero.mp hy0) nan⟩
    · rw [fadd_of_isFinite_of_sum_eq_zero hx hy h]
      exact ⟨fMag_fPack (by decide), fSign_fPack (by decide)⟩
    · rw [fdiv_zero_of_isFinite hx hy (mt fUnits_eq_zero.mpr hx0) (fUnits_eq_zero.mp hy0)]
      exact ⟨isInf_fPack _, fSign_fPack (by decide)⟩
  case infinite =>
    refine ⟨fun hy => fadd_inf_left hx hy nan, fun hy => fadd_inf_right hx hy nan,
      fun hy h => fadd_inf_opposite hx hy h nan, fun hy h0 => ?_, fun h0 => ?_, fun hy => ?_,
      fun hy => fdiv_inf_inf hx hy nan⟩
    · rw [fmul_comm nan y x, fmul_inf_left hx hy h0]
      exact ⟨isInf_fPack _, fSign_fPack (by decide), rfl⟩
    · rw [fmul_comm nan y x, fmul_inf_zero hx h0]
      exact ⟨rfl, rfl⟩
    · rw [fdiv_inf_left hx hy, fdiv_inf_right hx hy]
      exact ⟨isInf_fPack _, fSign_fPack (by decide), fMag_fPack (by decide), fSign_fPack (by decide)⟩

end Sys2Proof.Proofs
end

section
/-!
PROOFS. O57: the square root of 00_scope.md R17.
-/

namespace Sys2Proof.Proofs
open Sys2Proof Sys2Proof.Machine

/-- Bit by bit from the invariant `r² ≤ n < (r + 2^i)²`, the loop ends at the integer square root. -/
theorem isqrtFrom_eq_sqrt {n i r : Nat} (hle : r * r ≤ n) (hlt : n < (r + 2 ^ i) * (r + 2 ^ i)) :
    isqrtFrom n i r = Nat.sqrt n := by
  induction i generalizing r with
  | zero => exact Nat.eq_sqrt.mpr ⟨hle, hlt⟩
  | succ i ih =>
    rw [isqrtFrom]
    split
    next h => exact ih h (by rwa [Nat.add_assoc, ← Nat.two_mul, ← Nat.pow_succ'])
    next h => exact ih hle (Nat.lt_of_not_le h)

theorem isqrt_eq_sqrt {n : Nat} (h : n < 2 ^ 214 * 2 ^ 214) : isqrt n = Nat.sqrt n :=
  isqrtFrom_eq_sqrt (Nat.zero_le n) (by rwa [Nat.zero_add])

/-- A finite value is below `2^277` units. -/
theorem fUnits_lt_of_isFinite {x : F32} (h : isFinite x = true) : fUnits x < 2 ^ 24 * 2 ^ 253 := by
  rw [← magValue_infinity]
  exact magValue_strictMono (of_decide_eq_true h)

/-- What rounds at `2^24` units or above has its lower neighbour in the second normal binade at least. -/
theorem le_lowerField {n d : Nat} (hd : 0 < d) (h : 2 ^ 24 * d ≤ n) : 2 ^ 24 ≤ lowerField n d := by
  have hlt : 2 ^ 24 < magValue (lowerField n d + 1) :=
    Nat.lt_of_mul_lt_mul_right (h.trans_lt (lt_magValue_lowerField_succ_mul n hd))
  have h24 : magValue (2 ^ 24) = 2 ^ 24 := by norm_num [magValue]
  exact Nat.lt_succ_iff.mp (magValue_strictMono.lt_iff_lt.mp (h24.trans_lt hlt))

/-- Rounding `r` and one further bit `s` rounds every real `v` between `r` and `r + 1` that `s` says is above `r`: from the
second normal binade on the midpoints are whole numbers, so none lies strictly between `r` and `r + 1`. -/
theorem nearest_roundMag_sticky {r s : Nat} {v : ℝ} (hr : 2 ^ 24 ≤ r) (hs : s ≤ 1) (hrv : (r : ℝ) ≤ v)
    (hvr : v ≤ (r + s : Nat)) (hfin : roundMag (2 * r + s) 2 < 0x7F800000) (k : Nat) :
    |(magValue (roundMag (2 * r + s) 2) : ℝ) - v| ≤ |(magValue k : ℝ) - v| := by
  have hle := magValue_lowerField_mul_le (2 * r + s) 2
  have hlt := lt_magValue_lowerField_succ_mul (2 * r + s) two_pos
  have hbinade : 2 ^ 24 ≤ lowerField (2 * r + s) 2 := le_lowerField two_pos (by omega)
  have hA : 2 ∣ magValue (lowerField (2 * r + s) 2) := two_dvd_magValue hbinade
  have hB : 2 ∣ magValue (lowerField (2 * r + s) 2 + 1) := two_dvd_magValue (Nat.le_succ_of_le hbinade)
  have hout : (magValue k : ℝ) ≤ magValue (lowerField (2 * r + s) 2) ∨
      (magValue (lowerField (2 * r + s) 2 + 1) : ℝ) ≤ magValue k := by
    exact_mod_cast magValue_le_or_succ_le _ k
  by_cases h : RoundsUp (2 * r + s) 2
  · rw [roundMag_eq_succ h hfin]
    unfold RoundsUp at h
    generalize lowerField (2 * r + s) 2 = m at *
    have hvb : ((r + s : Nat) : ℝ) ≤ magValue (m + 1) := by exact_mod_cast (by omega)
    have hhalf : (magValue m : ℝ) + magValue (m + 1) ≤ 2 * r := by
      exact_mod_cast (by omega : magValue m + magValue (m + 1) ≤ 2 * r)
    exact abs_sub_le_of_upper_half (hvr.trans hvb) (by linarith) hout
  · rw [roundMag_eq_lowerField h hfin]
    unfold RoundsUp at h
    generalize lowerField (2 * r + s) 2 = m at *
    have hav : (magValue m : ℝ) ≤ r := by exact_mod_cast (by omega)
    have hhalf : 2 * ((r + s : Nat) : ℝ) ≤ magValue m + magValue (m + 1) := by
      exact_mod_cast (by omega : 2 * (r + s) ≤ magValue m + magValue (m + 1))
    exact abs_sub_le_of_lower_half (hav.trans hrv) (by linarith) hout

/-- The further bit of a root: 0 exactly when the root is a whole number of units. -/
def rootSticky (n : Nat) : Nat := if Nat.sqrt n * Nat.sqrt n = n then 0 else 1

theorem rootSticky_le_one (n : Nat) : rootSticky n ≤ 1 := by unfold rootSticky; split <;> omega

theorem sqrt_le_natSqrt_add_rootSticky (n : Nat) : Real.sqrt n ≤ (Nat.sqrt n + rootSticky n : Nat) := by
  unfold rootSticky
  split
  next h =>
    rw [add_zero, Real.sqrt_le_left (Nat.cast_nonneg _)]
    exact_mod_cast (by rw [pow_two, h] : n ≤ Nat.sqrt n ^ 2)
  next => exact_mod_cast Real.real_sqrt_le_nat_sqrt_succ

theorem fsqrt_of_pos {x : F32} (hx : isFinite x = true) (hs : fSign x = false) (h0 : 0 < fUnits x) (nan : F32) :
    fsqrt nan x = fPack false
      (roundMag (2 * Nat.sqrt (fUnits x * 2 ^ 149) + rootSticky (fUnits x * 2 ^ 149)) 2) := by
  have hm : fMag x ≠ 0 := mt fUnits_eq_zero.mpr h0.ne'
  have hn : fUnits x * 2 ^ 149 < 2 ^ 214 * 2 ^ 214 := by have := fUnits_lt_of_isFinite hx; omega
  simp only [fsqrt, isNaN_of_isFinite hx, isInf_of_isFinite hx, hs, hm, isqrt_eq_sqrt hn, rootSticky, if_false,
    Bool.false_eq_true]

/-- Settles O57: the model rounds the integer root and one further bit, which `nearest_roundMag_sticky` shows to round the real
root; the root of a positive finite value has at least 75 bits and stays far below the overflow. -/
theorem squareRootIsCorrectlyRounded : Obligations.SquareRootIsCorrectlyRounded := by
  intro nan x hx hs h0
  rw [fsqrt_of_pos hx hs h0, fUnits_eq_magValue (fPack _ _), fMag_fPack (roundMag_lt _ _),
    fSign_fPack (roundMag_lt _ _), isFinite, fMag_fPack (roundMag_lt _ _)]
  have hcast : (fUnits x : ℝ) * 2 ^ 149 = ((fUnits x * 2 ^ 149 : Nat) : ℝ) := by norm_num
  have hlt : fUnits x * 2 ^ 149 < 2 ^ 214 * 2 ^ 214 := by have := fUnits_lt_of_isFinite hx; omega
  have hlow : 2 ^ 74 ≤ Nat.sqrt (fUnits x * 2 ^ 149) := Nat.le_sqrt.mpr (by omega)
  have hhigh : Nat.sqrt (fUnits x * 2 ^ 149) < 2 ^ 214 := Nat.sqrt_lt.mpr hlt
  rw [hcast]
  generalize fUnits x * 2 ^ 149 = n at hlow hhigh
  have hsticky := rootSticky_le_one n
  have hfin : roundMag (2 * Nat.sqrt n + rootSticky n) 2 < 0x7F800000 :=
    lt_of_le_of_ne (roundMag_le _ _) fun h => by
      have := (roundMag_eq_infinity_iff _ two_pos).mp h
      omega
  exact ⟨decide_eq_true hfin, rfl, fun k _ => nearest_roundMag_sticky (by omega) hsticky Real.nat_sqrt_le_real_sqrt
    (sqrt_le_natSqrt_add_rootSticky n) hfin k⟩

end Sys2Proof.Proofs
end

section
/-!
PROOFS. O59: the transforms of 00_scope.md R28.
-/

namespace Sys2Proof.Proofs
open Sys2Proof Sys2Proof.Machine

/-! ### Lengths and the zero input -/

@[simp] theorem length_cExact (raw : Nat → Cplx) (k : Nat) (xs : List CInt) : (cExact raw k xs).length = xs.length := by
  induction xs generalizing k with
  | nil => rfl
  | cons x xs ih => rw [cExact, List.length_cons, ih, List.length_cons]

/-- A transform answers `L` values, when its exact results have the right number. -/
theorem length_fftWith {raw : Nat → Cplx} {exact : Option (List CInt)} {l : Nat} (z : List Cplx)
    (h : ∀ xs, exact = some xs → xs.length = l) : (fftWith raw exact l z).length = l := by
  unfold fftWith
  split
  · exact List.length_replicate
  · cases exact with
    | none => simp
    | some xs => simpa using h xs rfl

/-- Exact results are given at length 4 only, and there are four of them. -/
theorem length_exactDft4 {z : List Cplx} {xs : List CInt} (h : exactDft4 z = some xs) : xs.length = z.length := by
  unfold exactDft4 at h
  split at h
  · obtain ⟨-, h⟩ := Option.ite_none_right_eq_some.mp h
    cases h
    rfl
  · cases h

theorem length_exactIdft4 {z : List Cplx} {xs : List CInt} (h : exactIdft4 z = some xs) : xs.length = z.length := by
  unfold exactIdft4 at h
  split at h
  · obtain ⟨-, h⟩ := Option.ite_none_right_eq_some.mp h
    cases h
    rfl
  · cases h

/-- FFT-ZERO (00_scope.md R28). -/
theorem fftWith_replicate_zero (raw : Nat → Cplx) (exact : Option (List CInt)) (l : Nat) :
    fftWith raw exact l (List.replicate l (fZero, fZero)) = List.replicate l (fZero, fZero) :=
  if_pos (List.all_eq_true.mpr fun _ hx => decide_eq_true (List.eq_of_mem_replicate hx))

/-! ### The exact results at length 4 -/

theorem fInt_fZero : fInt fZero = 0 := by decide

theorem fInt_of_fMag_eq_zero {x : F32} (h : fMag x = 0) : fInt x = 0 := by
  have hu : fUnits x = 0 := fUnits_eq_zero.mpr h
  simp [fInt, hu]

/-- A representable result reads back as it is, whatever sign its zero drew (log 6). -/
theorem fInt_fExact {n : Int} (h : representable n = true) (raw : F32) : fInt (fExact raw n) = n := by
  unfold fExact
  split
  next h0 =>
    rw [h0]
    split
    next hm => exact fInt_of_fMag_eq_zero hm
    next => exact fInt_fZero
  next => exact of_decide_eq_true (Bool.and_eq_true_iff.mp h).2

theorem map_cInt_cExact {xs : List CInt} (h : ∀ x ∈ xs, cRepresentable x = true) (raw : Nat → Cplx) (k : Nat) :
    (cExact raw k xs).map cInt = xs := by
  induction xs generalizing k with
  | nil => rfl
  | cons x xs ih =>
    obtain ⟨hx, hxs⟩ := List.forall_mem_cons.mp h
    obtain ⟨hre, him⟩ := Bool.and_eq_true_iff.mp hx
    rw [cExact, List.map_cons, ih hxs, cInt, fInt_fExact hre, fInt_fExact him]

/-- FFT-EXACT4 (00_scope.md R28): a transform with exact representable results answers them, and where the input is all
`+0.0` it answers zeros, so the results must be zeros there. -/
theorem map_cInt_fftWith {raw : Nat → Cplx} {xs : List CInt} {l : Nat} {z : List Cplx}
    (h : ∀ x ∈ xs, cRepresentable x = true)
    (h0 : (∀ x ∈ z, x = (fZero, fZero)) → xs = List.replicate l (0, 0)) :
    (fftWith raw (some xs) l z).map cInt = xs := by
  unfold fftWith
  split
  next hz =>
    rw [h0 fun x hx => of_decide_eq_true (List.all_eq_true.mp hz x hx), List.map_replicate, cInt, fInt_fZero]
  next => exact map_cInt_cExact h raw 0

/-- Where the inputs, the partial sums and the results are representable, the forward transform at length 4 has its exact
results (FFT-EXACT4 of 00_scope.md R28). -/
theorem exactDft4_eq {z0 z1 z2 z3 : Cplx} (hz : [z0, z1, z2, z3].all cFinite = true)
    (hs : (butterfly4 false (cInt z0) (cInt z1) (cInt z2) (cInt z3)).1.all cRepresentable = true)
    (hr : (butterfly4 false (cInt z0) (cInt z1) (cInt z2) (cInt z3)).2.all cRepresentable = true) :
    exactDft4 [z0, z1, z2, z3] = some (butterfly4 false (cInt z0) (cInt z1) (cInt z2) (cInt z3)).2 :=
  if_pos (by simp only [Bool.and_eq_true]; exact ⟨⟨hz, hs⟩, hr⟩)

/-- The quarter of a complex sum that 4 divides. -/
def quarter (x : CInt) : CInt := (x.1 / 4, x.2 / 4)

/-- The inverse transform at length 4 has its exact results where the quarters are exact and representable too. -/
theorem exactIdft4_eq {z0 z1 z2 z3 : Cplx} (hz : [z0, z1, z2, z3].all cFinite = true)
    (hs : (butterfly4 true (cInt z0) (cInt z1) (cInt z2) (cInt z3)).1.all cRepresentable = true)
    (hr : (butterfly4 true (cInt z0) (cInt z1) (cInt z2) (cInt z3)).2.all cRepresentable = true)
    (hq : ((butterfly4 true (cInt z0) (cInt z1) (cInt z2) (cInt z3)).2.map quarter).all cRepresentable = true)
    (hd : (butterfly4 true (cInt z0) (cInt z1) (cInt z2) (cInt z3)).2.all
      (fun x => decide (x.1 % 4 = 0) && decide (x.2 % 4 = 0)) = true) :
    exactIdft4 [z0, z1, z2, z3] =
      some ((butterfly4 true (cInt z0) (cInt z1) (cInt z2) (cInt z3)).2.map quarter) :=
  if_pos (by simp only [Bool.and_eq_true]; exact ⟨⟨⟨⟨hz, hs⟩, hr⟩, hq⟩, hd⟩)

/-- The butterfly of zeros has zeros for results. -/
theorem butterfly4_zero (inverse : Bool) : (butterfly4 inverse 0 0 0 0).2 = List.replicate 4 (0, 0) := by
  cases inverse <;> decide

theorem cInt_fZero : cInt (fZero, fZero) = 0 := Prod.ext fInt_fZero fInt_fZero

/-- For an all-`+0.0` input the exact results are zeros. -/
theorem butterfly4_of_all_zero (inverse : Bool) {z0 z1 z2 z3 : Cplx} (h : ∀ x ∈ [z0, z1, z2, z3], x = (fZero, fZero)) :
    (butterfly4 inverse (cInt z0) (cInt z1) (cInt z2) (cInt z3)).2 = List.replicate 4 (0, 0) := by
  simp only [List.forall_mem_cons] at h
  obtain ⟨rfl, rfl, rfl, rfl, -⟩ := h
  rw [cInt_fZero, butterfly4_zero]

/-- The butterfly's four first-stage sums, written out by parts. -/
theorem butterfly4_sums (inverse : Bool) (z0 z1 z2 z3 : CInt) :
    (butterfly4 inverse z0 z1 z2 z3).1 =
      [(z0.1 + z2.1, z0.2 + z2.2), (z0.1 - z2.1, z0.2 - z2.2), (z1.1 + z3.1, z1.2 + z3.2),
        (z1.1 - z3.1, z1.2 - z3.2)] := rfl

/-- The butterfly's four results are the DFT's. -/
theorem butterfly4_dft (z0 z1 z2 z3 : CInt) :
    (butterfly4 false z0 z1 z2 z3).2 =
      [(z0.1 + z1.1 + z2.1 + z3.1, z0.2 + z1.2 + z2.2 + z3.2),
       (z0.1 + z1.2 - z2.1 - z3.2, z0.2 - z1.1 - z2.2 + z3.1),
       (z0.1 - z1.1 + z2.1 - z3.1, z0.2 - z1.2 + z2.2 - z3.2),
       (z0.1 - z1.2 - z2.1 + z3.2, z0.2 + z1.1 - z2.2 - z3.1)] := by
  simp only [butterfly4, Bool.false_eq_true, if_false, Prod.ext_iff, List.cons.injEq, Prod.fst_add, Prod.snd_add,
    Prod.fst_sub, Prod.snd_sub, and_true]
  omega

/-- The butterfly's four results with `+i` are four times the IDFT's. -/
theorem butterfly4_idft (z0 z1 z2 z3 : CInt) :
    (butterfly4 true z0 z1 z2 z3).2 =
      [(z0.1 + z1.1 + z2.1 + z3.1, z0.2 + z1.2 + z2.2 + z3.2),
       (z0.1 - z1.2 - z2.1 + z3.2, z0.2 + z1.1 - z2.2 - z3.1),
       (z0.1 - z1.1 + z2.1 - z3.1, z0.2 - z1.2 + z2.2 - z3.2),
       (z0.1 + z1.2 - z2.1 - z3.2, z0.2 - z1.1 - z2.2 + z3.1)] := by
  simp only [butterfly4, if_true, Prod.ext_iff, List.cons.injEq, Prod.fst_add, Prod.snd_add,
    Prod.fst_sub, Prod.snd_sub, and_true]
  omega

/-- A list of complex numbers is representable when their parts are. -/
theorem all_cRepresentable {xs : List CInt} (h : ∀ p ∈ xs, ∀ n ∈ [p.1, p.2], representable n = true) :
    xs.all cRepresentable = true :=
  List.all_eq_true.mpr fun p hp => Bool.and_eq_true_iff.mpr ⟨h p hp _ (by simp), h p hp _ (by simp)⟩

/-- The first stage is representable when its eight real sums are. -/
theorem butterfly4_sums_representable (inverse : Bool) {z0 z1 z2 z3 : CInt}
    (h : ∀ n ∈ [z0.1 + z2.1, z0.1 - z2.1, z1.1 + z3.1, z1.1 - z3.1, z0.2 + z2.2, z0.2 - z2.2, z1.2 + z3.2, z1.2 - z3.2],
      representable n = true) :
    (butterfly4 inverse z0 z1 z2 z3).1.all cRepresentable = true := by
  rw [butterfly4_sums]
  simp only [List.forall_mem_cons] at h
  simp [cRepresentable, h]

/-- Settles O59: the lengths and FFT-ZERO by the branches of `fftWith`, FFT-EXACT4 by `exactDft4_eq` and `exactIdft4_eq`, whose
butterfly is the DFT or the IDFT written out. -/
theorem transformsHaveTheirProperties : Obligations.TransformsHaveTheirProperties := by
  refine ⟨fun l z hz => ⟨?_, ?_⟩, fun l => ⟨fftWith_replicate_zero _ _ l, fftWith_replicate_zero _ _ l⟩, ?_⟩
  · exact length_fftWith z fun xs h => (length_exactDft4 h).trans hz
  · exact length_fftWith z fun xs h => (length_exactIdft4 h).trans hz
  intro z0 z1 z2 z3 hz re im ok hs fwd inv
  have hfin : [z0, z1, z2, z3].all cFinite = true :=
    List.all_eq_true.mpr fun z hzm => Bool.and_eq_true_iff.mpr (hz z hzm)
  refine ⟨fun hf => ?forward, fun hi => ?inverse⟩
  case forward =>
    have hb : (butterfly4 false (cInt z0) (cInt z1) (cInt z2) (cInt z3)).2 = fwd := butterfly4_dft ..
    have hr : (butterfly4 false (cInt z0) (cInt z1) (cInt z2) (cInt z3)).2.all cRepresentable = true :=
      all_cRepresentable (hb ▸ hf)
    rw [fftFwd, exactDft4_eq hfin (butterfly4_sums_representable false hs) hr, ← hb]
    exact map_cInt_fftWith (List.all_eq_true.mp hr) (butterfly4_of_all_zero false)
  case inverse =>
    have hb : (butterfly4 true (cInt z0) (cInt z1) (cInt z2) (cInt z3)).2 = inv := butterfly4_idft ..
    have hr : (butterfly4 true (cInt z0) (cInt z1) (cInt z2) (cInt z3)).2.all cRepresentable = true :=
      all_cRepresentable (hb ▸ fun p hp => (hi p hp).1)
    have hq : ((butterfly4 true (cInt z0) (cInt z1) (cInt z2) (cInt z3)).2.map quarter).all cRepresentable = true :=
      all_cRepresentable (hb ▸ List.forall_mem_map.mpr fun p hp => (hi p hp).2.2.2)
    have hd : (butterfly4 true (cInt z0) (cInt z1) (cInt z2) (cInt z3)).2.all
        (fun x => decide (x.1 % 4 = 0) && decide (x.2 % 4 = 0)) = true := by
      rw [hb, List.all_eq_true]
      intro p hp
      obtain ⟨-, h1, h2, -⟩ := hi p hp
      simp [h1, h2]
    rw [fftInv, exactIdft4_eq hfin (butterfly4_sums_representable true hs) hr hq hd, ← hb]
    exact map_cInt_fftWith (List.all_eq_true.mp hq) fun h0 => by rw [butterfly4_of_all_zero true h0]; rfl

end Sys2Proof.Proofs
end

section
/-!
PROOFS. What one step can do, said once for the invariants below: an instruction is a run of elementary updates
(`Update`), and a step is such a run, a host write to a register or to the storage, or a reset (`step_cases`).
-/

namespace Sys2Proof.Proofs
open Sys2Proof Sys2Proof.Machine Relation

/-! ### The elementary updates of the instructions -/

/-- One elementary update: each instruction is a run of these (`exec_updates`). -/
inductive Update : State → State → Prop
  /-- The sampler's registers (40_sequencer.md R229, R230, R232). -/
  | samp (s : State) (a : Axis) (r : SampRegs) : Update s (s.setSamp a r)
  /-- The current controller's registers (42_foc.md R300, R301). -/
  | foc (s : State) (a : Axis) (r : FocRegs) : Update s (s.setFoc a r)
  /-- The timings and the log (42_foc.md R310, R311). -/
  | pwm (s : State) (a : Axis) (r : PwmRegs) : Update s (s.setPwm a r)
  /-- The anti-cogging registers and the scratch (43_anticogging.md R345 to R347). -/
  | acog (s : State) (a : Axis) (r : AcogRegs) : Update s (s.setAcog a r)
  /-- The estimator by `PLL_INIT` (41_pll.md R270). -/
  | pllInit (s : State) (a : Axis) (nan : Nat → F32) (cnt : BitVec 16) :
      Update s (s.setPll a (pllInitRegs nan cnt (s.axis a).pll))
  /-- The estimator by `PLL_UPDATE` (41_pll.md R271). -/
  | pllUpdate (s : State) (a : Axis) (nan : Nat → F32) (t : F32) (cnt : BitVec 16) :
      Update s (s.setPll a (pllUpdateRegs nan t cnt (s.axis a).pll))
  /-- The estimator's gains (41_pll.md R272). -/
  | pllGains (s : State) (a : Axis) (kp ki : F32) : Update s (s.setPll a { (s.axis a).pll with kp := kp, ki := ki })
  /-- `CMD_STATUS` (30_encoding.md R191). -/
  | status (s : State) (a : Axis) (c : Status) : Update s (s.setStatus a c)
  /-- `G.GCMD_STATUS` (30_encoding.md R191). -/
  | gStatus (s : State) (c : Status) : Update s (s.setGStatus c)
  /-- The harmonic table of an axis (43_anticogging.md R346). -/
  | harmonics (s : State) (a : Axis) (hs : List Harmonic) (h : hs.length = Config.nHarm) :
      Update s (s.setMem (Memory.setHarmonics s.mem (harmAddr a 0) hs))
  /-- The map of an axis (43_anticogging.md R347). -/
  | map (s : State) (a : Axis) (vs : List F32) (h : vs.length ≤ Config.mapDepth) :
      Update s (s.setMem (Memory.setWords s.mem (mapAddr a 0) vs))
  /-- The sequencer restarted (44_system.md R382). -/
  | seqStart (s : State) : Update s (s.setSeq (seqRestart s.seq))
  /-- The sequencing fault recorded (40_sequencer.md R235). -/
  | seqRecord (s : State) (e : BitVec 16) (reason : SeqReason) (h : s.seq.run = true) :
      Update s (s.setSeq { s.seq with faultInfo := seqFaultWord s.seq e reason, run := false })
  /-- `BAD` set (40_sequencer.md R228). -/
  | seqBad (s : State) : Update s (s.setSeq { s.seq with bad := true })
  /-- A unit done, and the state completed when both are (40_sequencer.md R224). -/
  | seqDone (s : State) (u : AdcUnit) : Update s (completeIfDone (markDone u s))
  /-- A fault of an axis (60_exceptions.md R405). -/
  | fault (s : State) (e : BlockError) (a : Axis) : Update s (faultAxis e a s)
  /-- A report of an armed axis (42_foc.md R320). -/
  | report (s : State) (a : Axis) (h : s.enabled a = true) : Update s (brkReport a s)

/-- A run of elementary updates. -/
abbrev Updates : State → State → Prop := ReflTransGen Update

/-- What every elementary update keeps, a run of them keeps. -/
theorem Updates.keeps {P : State → Prop} (hP : ∀ {s t}, Update s t → P s → P t) {s t : State} (h : Updates s t)
    (hs : P s) : P t := by
  induction h with
  | refl => exact hs
  | tail _ hu ih => exact hP hu ih

theorem updates_modulationFault (a : Axis) (s : State) : Updates s (modulationFault a s) :=
  .tail (.single (.fault s .modulation a)) (.status _ a .eModulation)

theorem updates_seqFault {s : State} (e : BitVec 16) (reason : SeqReason) (h : s.seq.run = true) :
    Updates s (seqFault e reason s) :=
  .tail (.tail (.single (.seqRecord s e reason h)) (.fault _ .adcSeq .ax0)) (.fault _ .adcSeq .ax1)

theorem updates_finishStep {a : Axis} {s : State} (d : Duties) (h : s.enabled a = true) :
    Updates s (finishStep a d s) := by
  have hlog : Update s (logCount a (commitTimings a d s)) := logCount_commitTimings a d s ▸ .pwm s a _
  have hen : (logCount a (commitTimings a d s)).enabled a = true := by
    rw [logCount_commitTimings, State.setPwm_enabled, h]
  cases hm : deadlineMissed a s with
  | true =>
    rw [finishStep_of_missed hm]
    exact .tail (.tail (.single hlog) (.fault _ _ a)) (.status _ a _)
  | false =>
    rw [finishStep_of_intime hm]
    exact .tail (.tail (.single hlog) (.report _ a hen)) (.status _ a _)

theorem updates_convert (ax : Axis) (u : AdcUnit) (raw : BitVec 12) (s : State) : Updates s (convert ax u raw s) := by
  cases h : gainValid (s.axis ax).samp.currGain with
  | true => exact convert_of_valid h ▸ .single (.samp s ax _)
  | false => exact convert_of_invalid h ▸ .tail (.single (.fault s .gainInvalid ax)) (.seqBad _)

theorem updates_execAdcEoc {chan trig : Axis} {unit : BitVec 2} {raw : BitVec 12} {s t : State}
    (h : execAdcEoc chan trig unit raw s = .next t) : Updates s t := by
  rcases execAdcEoc_cases chan trig unit raw s with ⟨-, h'⟩ | ⟨hrun, reason, h'⟩ | ⟨-, -, -, -, h'⟩ <;>
    rw [h'] at h <;> cases h
  · exact .refl
  · exact updates_seqFault _ reason hrun
  · exact .tail (updates_convert _ _ raw s) (.seqDone _ _)

/-! ### The commands -/

theorem enabled_of_focRefusal {a : Axis} {s : State} (h : focRefusal a s = none) : s.enabled a = true :=
  (focRefusal_eq_none.mp h).1

/-- Both steps commit registers of the current controller before their timings (42_foc.md R300, R301). -/
theorem updates_commit {a : Axis} {s : State} (r : FocRegs) (d : Duties) (h : focRefusal a s = none) :
    Updates s (finishStep a d (s.setFoc a r)) :=
  .head (.foc s a r) (updates_finishStep d (by rw [State.setFoc_enabled]; exact enabled_of_focRefusal h))

theorem updates_execFocStep {a : Axis} {s t : State} (h : execFocStep a s = .next t) : Updates s t := by
  unfold execFocStep at h
  split at h
  next c _ => cases h; exact .single (.status s a c)
  next hr =>
    simp only at h
    split at h <;> cases h
    · exact updates_modulationFault a s
    · exact updates_commit _ _ hr

theorem updates_execVoltStep {a : Axis} {s t : State} (h : execVoltStep a s = .next t) : Updates s t := by
  unfold execVoltStep at h
  split at h
  next c _ => cases h; exact .single (.status s a c)
  next hr =>
    simp only at h
    split at h <;> cases h
    · exact updates_modulationFault a s
    · exact updates_commit _ _ hr

theorem updates_execPllSetBw {a : Axis} {s t : State} (h : execPllSetBw a s = .next t) : Updates s t := by
  simp only [execPllSetBw] at h
  split_ifs at h <;> cases h
  · exact .single (.status s a .eArg)
  · exact .single (.status s a .eArg)
  · exact .single (.status s a .eUnstable)
  · exact .tail (.single (.pllGains s a _ _)) (.status _ a .ok)

theorem updates_execAcogLookup {a : Axis} {s t : State} (h : execAcogLookup a s = .next t) : Updates s t := by
  simp only [execAcogLookup] at h
  split_ifs at h <;> cases h
  · exact .tail (.single (.acog s a _)) (.status _ a .ok)
  · exact .single (.status s a .eArg)
  · exact .single (.status s a .eSize)
  · exact .tail (.single (.acog s a _)) (.status _ a .ok)

theorem length_selectBins (tie : Nat → Nat) (n j : Nat) (cs : List (Nat × Int)) :
    (selectBins tie n j cs).length = n := by
  induction n generalizing j cs with
  | zero => rfl
  | succ n ih => cases cs <;> simp [selectBins, ih]

theorem length_selectHarmonics (tie : Nat → Nat) (l : Nat) (x : List Cplx) :
    (selectHarmonics tie l x).length = Config.nHarm := by
  rw [selectHarmonics, List.length_map, length_selectBins]

theorem length_doubleReal (nan : Nat → F32) (n : Nat) (ys : List Cplx) : (doubleReal nan n ys).length = ys.length := by
  induction ys generalizing n with
  | nil => rfl
  | cons y ys ih => simp [doubleReal, ih]

theorem length_fftInv {l : Nat} {z : List Cplx} (h : z.length = l) : (fftInv l z).length = l :=
  length_fftWith z fun _ hx => (length_exactIdft4 hx).trans h

theorem updates_execAcogCompress {a : Axis} {s t : State} (h : execAcogCompress a s = .next t) : Updates s t := by
  cases hl : supportedSize (s.cprOf a) with
  | false =>
    rw [(execAcog_of_unsupported hl).1] at h
    cases h
    exact .single (.status s a .eSize)
  | true =>
    rw [execAcogCompress_of_supported hl] at h
    cases h
    exact .tail (.tail (.single (.acog s a _)) (.harmonics _ a _ (length_selectHarmonics ..))) (.status _ a .ok)

theorem updates_execAcogDecompress {a : Axis} {s t : State} (h : execAcogDecompress a s = .next t) : Updates s t := by
  cases hl : supportedSize (s.cprOf a) with
  | false =>
    rw [(execAcog_of_unsupported hl).2] at h
    cases h
    exact .single (.status s a .eSize)
  | true =>
    have hlen :
        (doubleReal s.nanDraw 0 (fftInv (s.cprOf a) (harmSignal s a (s.cprOf a)))).length ≤ Config.mapDepth := by
      rw [length_doubleReal, length_fftInv (harmSignal_length s a _)]
      exact le_mapDepth_of_supportedSize hl
    rw [execAcogDecompress_of_supported hl] at h
    cases h
    exact .tail (.tail (.tail (.single (.acog s a _)) (.map _ a _ hlen)) (.acog _ a _)) (.status _ a .ok)

/-- Every instruction is a run of elementary updates. -/
theorem exec_updates {i : Instr} {s t : State} (h : exec i s = .next t) : Updates s t := by
  cases i with
  | nop a => cases h; exact .single (.status s a .ok)
  | pllInit a => cases h; exact .tail (.single (.pllInit s a _ _)) (.status _ a .ok)
  | pllUpdate a => cases h; exact .tail (.single (.pllUpdate s a _ _ _)) (.status _ a .ok)
  | pllSetBw a => exact updates_execPllSetBw h
  | focStep a => exact updates_execFocStep h
  | voltStep a => exact updates_execVoltStep h
  | acogLookup a => exact updates_execAcogLookup h
  | acogCompress a => exact updates_execAcogCompress h
  | acogDecompress a => exact updates_execAcogDecompress h
  | gnop => cases h; exact .single (.gStatus s .ok)
  | seqStart => cases h; exact .tail (.single (.seqStart s)) (.gStatus _ .ok)
  | adcEoc chan trig unit raw => exact updates_execAdcEoc h
  | adcEocForeign chan trig unit raw =>
    replace h : execAdcEocForeign chan trig unit raw s = .next t := h
    unfold execAdcEocForeign at h
    split at h <;> cases h
    · exact .refl
    next hrun => exact updates_seqFault _ .foreign (by simpa using hrun)

/-- A word that arrives runs an instruction, or is refused with a status. -/
theorem runWire_updates {w : Wire} {s t : State} (h : runWire w s = .next t) : Updates s t := by
  unfold runWire at h
  split at h
  · exact exec_updates h
  · cases w <;> cases h
    · exact .single (.status s _ .eIllegal)
    · exact .single (.gStatus s .eIllegal)
    · exact .refl

/-! ### One step -/

/-- The registers and the storage of the block are the same: only the environment's fields and the response may differ. -/
structure SameBlock (s t : State) : Prop where
  g : t.g = s.g
  seq : t.seq = s.seq
  brk : t.brk = s.brk
  ax : t.ax = s.ax
  mem : t.mem = s.mem

theorem SameBlock.axis {s t : State} (h : SameBlock s t) : t.axis = s.axis := by
  funext a
  rw [State.axis, State.axis, h.ax]

theorem SameBlock.enabled {s t : State} (h : SameBlock s t) : t.enabled = s.enabled := by
  funext a
  rw [State.enabled_eq, State.enabled_eq, h.axis]

theorem sameBlock_take (s : State) (ds : List Delivery) : SameBlock s (s.take ds) := ⟨rfl, rfl, rfl, rfl, rfl⟩

theorem sameBlock_accept (s : State) (ds : List Delivery) : SameBlock s (s.accept ds) := ⟨rfl, rfl, rfl, rfl, rfl⟩

/-- What one step can do. -/
inductive StepEffect (s t : State) : Prop
  /-- Nothing to the block, or the word of a command or of an event. -/
  | updates (u : State) (hu : SameBlock s u) (run : Updates u t)
  /-- A host write to a global register. -/
  | global (k : BitVec 20) (v : W32) (ds : List Delivery) (r : GReg) (pending : s.pending = .write k 32 v :: ds)
      (loc : locate k = .global r) (eq : t = writeGlobal v (s.accept ds) r)
  /-- A host write to a register of an axis. -/
  | axis (k : BitVec 20) (v : W32) (ds : List Delivery) (a : Axis) (r : AxReg)
      (pending : s.pending = .write k 32 v :: ds) (loc : locate k = .axis a r) (eq : t = writeAxis a v (s.accept ds) r)
  /-- A host write to the storage. -/
  | storage (k : BitVec 20) (v : W32) (ds : List Delivery) (n : Nat) (pending : s.pending = .write k 32 v :: ds)
      (loc : locate k = .storage n) (aligned : k.toNat % 4 = 0)
      (eq : t = (s.accept ds).setMem (Memory.setWord s.mem n v))
  /-- A reset. -/
  | reset (ds : List Delivery) (pending : s.pending = .reset :: ds) (eq : t = afterReset (s.take ds))

/-- A step that leaves the block alone. -/
theorem StepEffect.quiet {s t : State} (h : SameBlock s t) : StepEffect s t := .updates t h .refl

theorem stepEffect_of_write {s t : State} {k : BitVec 20} {v : W32} {ds : List Delivery}
    (hp : s.pending = .write k 32 v :: ds) (hk : busAccepts k 32 = true) (h : step s = .next t) : StepEffect s t := by
  rw [step_write hp hk] at h
  have ha := sameBlock_accept s ds
  cases hl : locate k <;> rw [hl] at h
  case gcmd => exact .updates _ ha (runWire_updates h)
  case cmd a => exact .updates _ ha (runWire_updates h)
  case global r => cases h; exact .global k v ds r hp hl rfl
  case axis a r => cases h; exact .axis k v ds a r hp hl rfl
  case storage n => cases h; exact .storage k v ds n hp hl ((busAccepts_iff k 32).mp hk).2.1 rfl
  case hole | unmapped => cases h; exact .quiet ha

/-- What one step can do, by the delivery it takes. -/
theorem step_cases {s t : State} (h : step s = .next t) : StepEffect s t := by
  cases hp : s.pending with
  | nil => rw [step_idle hp] at h; cases h; exact .quiet ⟨rfl, rfl, rfl, rfl, rfl⟩
  | cons d ds =>
    cases d with
    | write k width v =>
      cases hk : busAccepts k width with
      | true =>
        obtain rfl := ((busAccepts_iff k width).mp hk).1
        exact stepEffect_of_write hp hk h
      | false =>
        rw [step_deliver hp, deliver, busWrite, if_neg (by simp [hk])] at h
        cases h
        exact .quiet ⟨rfl, rfl, rfl, rfl, rfl⟩
    | event e => rw [step_event hp] at h; exact .updates _ (sameBlock_take s ds) (runWire_updates h)
    | reset => rw [step_deliver hp] at h; cases h; exact .reset ds hp rfl
    | read k width | setEncCnt a c | setPwmCnt a c =>
      rw [step_deliver hp] at h; cases h; exact .quiet ⟨rfl, rfl, rfl, rfl, rfl⟩

/-- A register of an axis, with the address a write to it has. -/
theorem axisAddr_of_locate {k : BitVec 20} {a : Axis} {r : AxReg} (h : locate k = .axis a r) :
    ∃ off, k.toNat = axisAddr a off ∧ axisLoc a off = .axis a r := by
  rcases locate_cases k with ⟨h', -⟩ | ⟨_, h', -⟩ | ⟨_, h'⟩ | ⟨b, r', off, h', -, hk, hl⟩ | ⟨h', -⟩ | h' | ⟨h', -⟩ <;>
    rw [h'] at h <;> cases h
  exact ⟨off, hk, hl⟩

end Sys2Proof.Proofs
end

section
/-!
PROOFS. What the elementary updates and the host writes leave alone (the facts of the invariants below), and O26.
-/

namespace Sys2Proof.Proofs
open Sys2Proof Sys2Proof.Machine

/-! ### The control registers after an update of the others -/

@[simp] theorem ctl_setSamp (s : State) (a b : Axis) (r : SampRegs) :
    ((s.setSamp a r).axis b).ctl = (s.axis b).ctl := by cases a <;> cases b <;> rfl

@[simp] theorem ctl_setFoc (s : State) (a b : Axis) (r : FocRegs) :
    ((s.setFoc a r).axis b).ctl = (s.axis b).ctl := by cases a <;> cases b <;> rfl

@[simp] theorem ctl_setPwm (s : State) (a b : Axis) (r : PwmRegs) :
    ((s.setPwm a r).axis b).ctl = (s.axis b).ctl := by cases a <;> cases b <;> rfl

@[simp] theorem ctl_setAcog (s : State) (a b : Axis) (r : AcogRegs) :
    ((s.setAcog a r).axis b).ctl = (s.axis b).ctl := by cases a <;> cases b <;> rfl

@[simp] theorem ctl_setPll (s : State) (a b : Axis) (r : PllRegs) :
    ((s.setPll a r).axis b).ctl = (s.axis b).ctl := by cases a <;> cases b <;> rfl

theorem ctl_setAxis {s : State} {a : Axis} {q : AxisRegs} (h : q.ctl = (s.axis a).ctl) (b : Axis) :
    ((s.setAxis a q).axis b).ctl = (s.axis b).ctl := by
  rw [State.setAxis_axis]
  split
  next hb => rw [h, hb]
  next => rfl

/-- `CMD_STATUS` aside, a status leaves the control registers alone. -/
@[simp] theorem error_setStatus (s : State) (a b : Axis) (c : Status) :
    ((s.setStatus a c).axis b).ctl.error = (s.axis b).ctl.error := by cases a <;> cases b <;> rfl

/-- New control registers with the same `ERROR`. -/
theorem error_setCtl {s : State} {a : Axis} {c : CtlRegs} (h : c.error = (s.axis a).ctl.error) (b : Axis) :
    ((s.setCtl a c).axis b).ctl.error = (s.axis b).ctl.error := by
  rw [State.setCtl_axis]
  split
  next hb => rw [hb, ← h]
  next => rfl

/-! ### A unit done -/

/-- `SEQ` after a unit is done, and advanced when both are (40_sequencer.md R224, R231, R233). -/
def seqAfterDone (u : AdcUnit) (r : SeqRegs) : SeqRegs :=
  let m := { r with done := r.done.set u true, trigSel := r.trigSel.set u (seqAxis (r.state + 1#2)) }
  if m.done.unit0 && m.done.unit1 then advance m else m

/-- A unit done changes `SEQ`, and of the axes the sampler of one at most (40_sequencer.md R232). -/
theorem completeIfDone_markDone (u : AdcUnit) (s : State) :
    ∃ a r, completeIfDone (markDone u s) = (s.setSamp a r).setSeq (seqAfterDone u s.seq) := by
  by_cases hdone : ((s.seq.done.set u true).unit0 && (s.seq.done.set u true).unit1) = true
  · have hseq : seqAfterDone u s.seq = advance (markDone u s).seq := if_pos hdone
    have hstate : completeIfDone (markDone u s) = completeState (markDone u s) := if_pos hdone
    rw [hseq, hstate, completeState]
    split
    · exact ⟨_, _, rfl⟩
    · exact ⟨.ax0, (s.axis .ax0).samp, rfl⟩
  · have hseq : seqAfterDone u s.seq = (markDone u s).seq := if_neg hdone
    have hstate : completeIfDone (markDone u s) = markDone u s := if_neg hdone
    rw [hseq, hstate]
    exact ⟨.ax0, (s.axis .ax0).samp, rfl⟩

/-! ### Faults and host writes -/

@[simp] theorem disableAxis_error (a b : Axis) (s : State) :
    ((disableAxis a s).axis b).ctl.error = (s.axis b).ctl.error := by
  rw [disableAxis_eq, State.setBrk_axis, error_setCtl (by rfl)]

/-- A fault adds its bit on its axis. -/
theorem faultAxis_error (e : BlockError) (a b : Axis) (s : State) :
    ((faultAxis e a s).axis b).ctl.error =
      if b = a then (s.axis a).ctl.error ||| e.mask else (s.axis b).ctl.error := by
  rw [faultAxis_eq, State.setBrk_axis, State.setCtl_axis]
  split <;> rfl

@[simp] theorem writeCtrl_error (a b : Axis) (v : W32) (s : State) :
    ((writeCtrl a v s).axis b).ctl.error = (s.axis b).ctl.error := by
  unfold writeCtrl
  simp only
  split_ifs
  · rw [error_setCtl (by rfl), error_setCtl (by rfl)]
  · rw [error_setCtl (by rfl)]
  · rw [disableAxis_error, error_setCtl (by rfl)]

/-- `ERROR_SET` adds the bits it names. -/
theorem writeErrorSet_error (a b : Axis) (v : W32) (s : State) :
    ((writeErrorSet a v s).axis b).ctl.error =
      if b = a then (s.axis a).ctl.error ||| v.extractLsb' 0 10 else (s.axis b).ctl.error := by
  have h : ((orError a (v.extractLsb' 0 10) s).axis b).ctl.error =
      if b = a then (s.axis a).ctl.error ||| v.extractLsb' 0 10 else (s.axis b).ctl.error := by
    rw [orError, State.setCtl_axis]
    split <;> rfl
  rw [← h, writeErrorSet]
  split
  · rfl
  · rw [disableAxis_error]

/-- A configuration register that takes a value only when it is legal. -/
theorem setG_ite {s : State} {legal : Bool} {g : GlobalRegs} (h : legal = true → s.g.Legal → g.Legal) :
    ∃ g', (if legal = true then s.setG g else s) = s.setG g' ∧ (s.g.Legal → g'.Legal) := by
  split
  next hv => exact ⟨g, rfl, h hv⟩
  next => exact ⟨s.g, rfl, id⟩

/-- A host write to a global register changes the configuration only, and keeps it legal (10_state.md R62 to R66). -/
theorem writeGlobal_eq (v : W32) (s : State) (r : GReg) :
    ∃ g, writeGlobal v s r = s.setG g ∧ (s.g.Legal → g.Legal) := by
  cases r
  case irqEn | vbus => exact ⟨_, rfl, fun ⟨h1, h2, h3, h4, h5⟩ => ⟨h1, h2, h3, h4, h5⟩⟩
  case t => exact setG_ite fun hv h => { h with t_legal := .inr hv }
  case dcTau => exact setG_ite fun hv h => { h with dcTau_legal := hv }
  case modLimitFrac => exact setG_ite fun hv h => { h with modLimitFrac_legal := hv }
  case brakeR => exact setG_ite fun hv h => { h with brakeR_legal := hv }
  case brakeDutyMax => exact setG_ite fun hv h => { h with brakeDutyMax_legal := hv }
  all_goals exact ⟨s.g, rfl, id⟩

/-- An update of an axis that leaves its control registers alone and keeps it legal. -/
def PlainWrite (a : Axis) (s t : State) : Prop :=
  ∃ q, t = s.setAxis a q ∧ q.ctl = (s.axis a).ctl ∧ ((s.axis a).Legal → q.Legal)

theorem PlainWrite.self (a : Axis) (s : State) : PlainWrite a s s :=
  ⟨s.axis a, (State.setAxis_own s a).symm, rfl, id⟩

theorem plainWrite_writeCpr (a : Axis) (v : W32) (s : State) : PlainWrite a s (writeCpr a v s) := by
  unfold writeCpr
  simp only
  split
  next h => exact ⟨_, rfl, rfl, fun ⟨_, _, h3, h4, h5, h6⟩ => ⟨h.2.1, h.2.2, h3, h4, h5, h6⟩⟩
  next => exact .self a s

theorem plainWrite_writePolePairs (a : Axis) (v : W32) (s : State) : PlainWrite a s (writePolePairs a v s) := by
  unfold writePolePairs
  split
  next h => exact ⟨_, rfl, rfl, fun ⟨h1, h2, _, _, h5, h6⟩ => ⟨h1, h2, h.2.1, h.2.2, h5, h6⟩⟩
  next => exact .self a s

/-- A host write to a register of an axis, by whether it can touch the control registers. -/
theorem writeAxis_cases (a : Axis) (v : W32) (s : State) (r : AxReg) :
    r = .ctrl ∨ r = .error ∨ r = .errorSet ∨ PlainWrite a s (writeAxis a v s r) := by
  cases r
  case ctrl => exact .inl rfl
  case error => exact .inr (.inl rfl)
  case errorSet => exact .inr (.inr (.inl rfl))
  case cpr => exact .inr (.inr (.inr (plainWrite_writeCpr a v s)))
  case polePairs => exact .inr (.inr (.inr (plainWrite_writePolePairs a v s)))
  case cmdStatus | sampleB | sampleC | encPrev | encPos | encPosMod | elecPhase | idMeas | iqMeas | modD | modQ | ibus
    | pwmCmpA | pwmCmpB | pwmCmpC | tlast | tlogIdx | acogFf | tlog => exact .inr (.inr (.inr (.self a s)))
  all_goals exact .inr (.inr (.inr ⟨_, rfl, rfl, fun ⟨h1, h2, h3, h4, h5, h6⟩ => ⟨h1, h2, h3, h4, h5, h6⟩⟩))

/-! ### The error bits -/

/-- No elementary update clears an error bit. -/
theorem Update.keeps_error {s t : State} (h : Update s t) {a : Axis} {i : Nat}
    (hs : (s.axis a).ctl.error.getLsbD i = true) : (t.axis a).ctl.error.getLsbD i = true := by
  cases h with
  | seqDone u =>
    obtain ⟨b, r, h⟩ := completeIfDone_markDone u s
    simpa [h] using hs
  | fault e b =>
    rw [faultAxis_error]
    split
    next h => subst h; simp [hs]
    next => exact hs
  | report b hb => rw [brkReport_eq]; exact hs
  | _ => simpa using hs

/-- A write to `ERROR` clears only the bits it names, of its own axis. -/
theorem error_cleared {a b : Axis} {i : Nat} {v : W32} {s : State} (hs : (s.axis a).ctl.error.getLsbD i = true)
    (ht : ((writeAxis b v s .error).axis a).ctl.error.getLsbD i = false) : a = b ∧ v.getLsbD i = true := by
  have hi : i < 10 := BitVec.lt_of_getLsbD hs
  rw [writeAxis, State.setCtl_axis] at ht
  split at ht
  next h => subst h; simpa [clearError, hs, hi] using ht
  next => rw [hs] at ht; cases ht

/-- Settles O26: of what a step can do, only a write to `ERROR` and a reset clear an error bit. -/
theorem errorBitsAreSticky : Obligations.ErrorBitsAreSticky := by
  intro s t a i h hs ht
  have kept {u : State} (hu : (u.axis a).ctl.error.getLsbD i = true) : ¬(u.axis a).ctl.error.getLsbD i = false := by
    rw [hu]; decide
  cases step_cases h with
  | updates u hu run =>
    refine absurd ht (kept (run.keeps (P := fun u => (u.axis a).ctl.error.getLsbD i = true) (fun h => h.keeps_error) ?_))
    rwa [hu.axis]
  | global k v ds r hp hl ht' =>
    obtain ⟨g, hg, -⟩ := writeGlobal_eq v (s.accept ds) r
    exact absurd ht (kept (by rwa [ht', hg]))
  | storage k v ds n hp hl h4 ht' => exact absurd ht (kept (by rwa [ht']))
  | reset ds hp ht' => exact ⟨_, ds, hp, .inl rfl⟩
  | axis k v ds b r hp hl ht' =>
    subst ht'
    rcases writeAxis_cases b v (s.accept ds) r with rfl | rfl | rfl | ⟨q, hq, hctl, -⟩
    · exact absurd ht (kept (by simpa [writeAxis] using hs))
    · obtain ⟨rfl, hv⟩ := error_cleared hs ht
      obtain ⟨off, hk, hoff⟩ := axisAddr_of_locate hl
      obtain ⟨-, rfl⟩ := axisLoc_error hoff
      exact ⟨_, ds, hp, .inr ⟨v, ⟨k, rfl, hk⟩, hv⟩⟩
    · refine absurd ht (kept ?_)
      rw [writeAxis, writeErrorSet_error]
      split
      next h => subst h; simp [hs]
      next => exact hs
    · refine absurd ht (kept ?_)
      rw [hq, ctl_setAxis hctl]
      exact hs

end Sys2Proof.Proofs
end

section
/-!
PROOFS. O21: the brake duty stays in `[0, 1]` (10_state.md R66, R67, 42_foc.md R320, R321).
-/

namespace Sys2Proof.Proofs
open Sys2Proof Sys2Proof.Machine

/-! ### Values that are not below zero -/

/-- Not below zero: a positive value, a zero of either sign, or a NaN. -/
def NotBelowZero (x : F32) : Prop := fSign x = true → fMag x = 0 ∨ isNaN x = true

theorem fKey_fZero : fKey fZero = 0 := by decide

/-- `0 <= x` (00_scope.md R20), by the sign and the magnitude field. -/
theorem fle_fZero_iff {x : F32} : fle fZero x = true ↔ isNaN x = false ∧ NotBelowZero x := by
  cases hn : isNaN x <;> cases hs : fSign x <;> simp [fle, NotBelowZero, hn, fKey_fZero, hs] <;> simp [fKey, hs]

/-- `0 < x` (00_scope.md R20). -/
theorem flt_fZero_iff {x : F32} : flt fZero x = true ↔ isNaN x = false ∧ fSign x = false ∧ fMag x ≠ 0 := by
  cases hn : isNaN x <;> cases hs : fSign x <;> simp [flt, hn, fKey_fZero] <;> simp [fKey, hs, Nat.pos_iff_ne_zero]

theorem notBelowZero_of_isNaN {x : F32} (h : isNaN x = true) : NotBelowZero x := fun _ => .inr h

theorem notBelowZero_of_flt {x : F32} (h : flt fZero x = true) : NotBelowZero x := fun hs => by
  rw [(flt_fZero_iff.mp h).2.1] at hs
  cases hs

theorem notBelowZero_fZero : NotBelowZero fZero := fun h => absurd h (by decide)

/-- A value of magnitude `m` whose sign is set only for a zero. -/
theorem notBelowZero_fPack {neg : Bool} {m : Nat} (hm : m < 0x80000000) (h : neg = true → m = 0) :
    NotBelowZero (fPack neg m) := fun hs => .inl (by rw [fMag_fPack hm, h (by rwa [fSign_fPack hm] at hs)])

/-- Where two values not below zero differ in sign, one is a zero. -/
theorem fMag_eq_zero_of_fSign_ne {x y : F32} (hx : NotBelowZero x) (hy : NotBelowZero y)
    (hn : ¬(isNaN x || isNaN y) = true) (hs : (fSign x != fSign y) = true) : fMag x = 0 ∨ fMag y = 0 := by
  simp only [Bool.or_eq_true, not_or] at hn
  cases h : fSign x with
  | true => exact .inl ((hx h).resolve_right hn.1)
  | false => exact .inr ((hy (by simpa [h] using hs)).resolve_right hn.2)

theorem roundMag_zero (d : Nat) : roundMag 0 d = 0 := by simp [roundMag]

/-- A product of values not below zero is not below zero. -/
theorem notBelowZero_fmul {nan x y : F32} (hnan : isNaN nan = true) (hx : NotBelowZero x) (hy : NotBelowZero y) :
    NotBelowZero (fmul nan x y) := by
  unfold fmul
  split_ifs with hn hz hi
  · exact notBelowZero_of_isNaN hnan
  · exact notBelowZero_of_isNaN hnan
  · refine notBelowZero_fPack (by decide) fun hs => absurd hz ?_
    rcases fMag_eq_zero_of_fSign_ne hx hy hn hs with h | h <;> simp [isInf, h] at hi ⊢ <;> exact hi
  · refine notBelowZero_fPack (roundMag_lt _ _) fun hs => ?_
    rcases fMag_eq_zero_of_fSign_ne hx hy hn hs with h | h <;> simp [fUnits_eq_zero.mpr h, roundMag_zero]

/-- A quotient of a value not below zero by one above zero is not below zero. -/
theorem notBelowZero_fdiv {nan x y : F32} (hnan : isNaN nan = true) (hx : NotBelowZero x) (hy : flt fZero y = true) :
    NotBelowZero (fdiv nan x y) := by
  obtain ⟨-, -, hy0⟩ := flt_fZero_iff.mp hy
  have hx0 (hn : ¬(isNaN x || isNaN y) = true) (hs : (fSign x != fSign y) = true) : fMag x = 0 :=
    (fMag_eq_zero_of_fSign_ne hx (notBelowZero_of_flt hy) hn hs).resolve_right hy0
  unfold fdiv
  split_ifs with hn hz hi
  · exact notBelowZero_of_isNaN hnan
  · exact notBelowZero_of_isNaN hnan
  · exact notBelowZero_fPack (by decide) fun hs => by simp [isInf, hx0 hn hs, hy0] at hi
  · exact notBelowZero_fPack (by decide) fun _ => rfl
  · exact notBelowZero_fPack (roundMag_lt _ _) fun hs => by simp [fUnits_eq_zero.mpr (hx0 hn hs), roundMag_zero]

/-! ### The aggregate -/

/-- The range of `BRAKE_DUTY` (10_state.md R67). -/
structure IsFraction (x : F32) : Prop where
  nonneg : fle fZero x = true
  le_one : fle x fOne = true

theorem isFraction_fZero : IsFraction fZero := ⟨by decide, by decide⟩

theorem isNaN_of_fle {x y : F32} (h : fle x y = true) : isNaN x = false ∧ isNaN y = false := by
  simp only [fle, Bool.and_eq_true, Bool.not_eq_true'] at h
  exact h.1

theorem fle_trans {x y z : F32} (h : fle x y = true) (h' : fle y z = true) : fle x z = true := by
  simp only [fle, Bool.and_eq_true, decide_eq_true_eq] at *
  exact ⟨⟨h.1.1, h'.1.2⟩, h.2.trans h'.2⟩

/-- Values that are not NaNs are ordered. -/
theorem fle_of_not_flt {x y : F32} (hx : isNaN x = false) (hy : isNaN y = false) (h : ¬flt y x = true) :
    fle x y = true := by simpa [flt, fle, hx, hy] using h

theorem notBelowZero_ite {c : Prop} [Decidable c] {x : F32} (h : c → NotBelowZero x) :
    NotBelowZero (if c then x else fZero) := by
  split
  next hc => exact h hc
  next => exact notBelowZero_fZero

/-- A value not below zero, a NaN taken as zero. -/
theorem fle_fZero_ite_isNaN {d : F32} (h : NotBelowZero d) : fle fZero (if isNaN d = true then fZero else d) = true := by
  split
  next => exact isFraction_fZero.nonneg
  next hn => exact fle_fZero_iff.mpr ⟨by simpa using hn, h⟩

/-- A value limited by a fraction. -/
theorem isFraction_limit {d max : F32} (hd : fle fZero d = true) (hmax : IsFraction max) :
    IsFraction (if fgt d max = true then max else d) := by
  split
  next => exact hmax
  next h => exact ⟨hd, fle_trans (fle_of_not_flt (isNaN_of_fle hd).2 (isNaN_of_fle hmax.nonneg).2 h) hmax.le_one⟩

theorem isFraction_of_legalFraction {x : F32} (h : legalFraction x = true) : IsFraction x := by
  simp only [legalFraction, fge, Bool.and_eq_true] at h
  exact ⟨h.1.2, h.2⟩

theorem notBelowZero_of_legalNonneg {x : F32} (h : legalNonneg x = true) : NotBelowZero x :=
  (fle_fZero_iff.mp (Bool.and_eq_true_iff.mp h).2).2

/-- The current fed back times the resistance over the bus voltage is not below zero, and the limit is a fraction
(42_foc.md R321, 10_state.md R65, R66). -/
theorem isFraction_brakeDutyOf {s : State} (hg : s.g.Legal) : IsFraction (brakeDutyOf s) := by
  refine isFraction_limit (fle_fZero_ite_isNaN (notBelowZero_ite fun hvbus => ?_))
    (isFraction_of_legalFraction hg.brakeDutyMax_legal)
  refine notBelowZero_fdiv (isNaN_nanDraw s 102) ?_ (Bool.and_eq_true_iff.mp hvbus).2
  exact notBelowZero_fmul (isNaN_nanDraw s 101) (notBelowZero_ite notBelowZero_of_flt)
    (notBelowZero_of_legalNonneg hg.brakeR_legal)

/-! ### What changes the duty -/

/-- The duty is in range and the configuration it comes from is legal. -/
structure DutyOk (s : State) : Prop where
  legal : s.g.Legal
  duty : IsFraction s.brk.duty

/-- `brk_try` and the updates of `BRK` around it (42_foc.md R320). -/
theorem dutyOk_brkTry {s : State} (h : DutyOk s) : DutyOk (brkTry s) := by
  unfold brkTry
  split_ifs
  · exact ⟨h.legal, isFraction_fZero⟩
  · exact ⟨h.legal, isFraction_brakeDutyOf h.legal⟩
  · exact h

theorem dutyOk_disableAxis {a : Axis} {s : State} (h : DutyOk s) : DutyOk (disableAxis a s) := by
  unfold disableAxis
  split
  · exact dutyOk_brkTry ⟨h.legal, h.duty⟩
  · exact h

theorem dutyOk_faultAxis {e : BlockError} {a : Axis} {s : State} (h : DutyOk s) : DutyOk (faultAxis e a s) :=
  dutyOk_disableAxis ⟨h.legal, h.duty⟩

theorem Update.keeps_dutyOk {s t : State} (hu : Update s t) (h : DutyOk s) : DutyOk t := by
  cases hu with
  | gStatus c =>
    obtain ⟨⟨h1, h2, h3, h4, h5⟩, hd⟩ := h
    exact ⟨⟨h1, h2, h3, h4, h5⟩, hd⟩
  | seqDone u =>
    obtain ⟨b, r, ht⟩ := completeIfDone_markDone u s
    rw [ht]
    exact ⟨h.legal, h.duty⟩
  | fault e a => exact dutyOk_faultAxis h
  | report a ha => exact dutyOk_brkTry ⟨h.legal, h.duty⟩
  | _ => exact ⟨h.legal, h.duty⟩

theorem dutyOk_writeAxis {a : Axis} {v : W32} {s : State} (r : AxReg) (h : DutyOk s) : DutyOk (writeAxis a v s r) := by
  rcases writeAxis_cases a v s r with rfl | rfl | rfl | ⟨q, hq, -, -⟩
  · rw [writeAxis, writeCtrl]
    simp only
    split_ifs
    · exact ⟨h.legal, h.duty⟩
    · exact ⟨h.legal, h.duty⟩
    · exact dutyOk_disableAxis ⟨h.legal, h.duty⟩
  · exact ⟨h.legal, h.duty⟩
  · rw [writeAxis, writeErrorSet]
    split_ifs
    · exact ⟨h.legal, h.duty⟩
    · exact dutyOk_disableAxis ⟨h.legal, h.duty⟩
  · rw [hq]
    exact ⟨h.legal, h.duty⟩

/-- Settles O21: only `brk_try` writes the duty, and the aggregate is a fraction under a legal configuration. -/
theorem brakeDutyStaysAFraction : Obligations.BrakeDutyStaysAFraction := by
  intro s t hinv h0 h1 h
  have hs : DutyOk s := ⟨hinv.global, h0, h1⟩
  suffices IsFraction t.brk.duty from ⟨this.nonneg, this.le_one⟩
  cases step_cases h with
  | updates u hu run => exact (run.keeps Update.keeps_dutyOk ⟨hu.g ▸ hs.legal, hu.brk ▸ hs.duty⟩).duty
  | global k v ds r hp hl ht =>
    obtain ⟨g, hg, -⟩ := writeGlobal_eq v (s.accept ds) r
    rw [ht, hg]
    exact hs.duty
  | axis k v ds a r hp hl ht => exact ht ▸ (dutyOk_writeAxis (s := s.accept ds) r ⟨hs.legal, hs.duty⟩).duty
  | storage k v ds n hp hl h4 ht => exact ht ▸ hs.duty
  | reset ds hp ht => exact ht ▸ isFraction_fZero

end Sys2Proof.Proofs
end

section
/-!
PROOFS. O19: every step keeps the invariant of Safety.lean.
-/

namespace Sys2Proof.Proofs
open Sys2Proof Sys2Proof.Machine

/-! ### The brake reports -/

/-- Between steps the reports depend on `ENABLE` and `BRK` only. -/
theorem brkConsistent_congr {s t : State} (he : t.enabled = s.enabled) (hb : t.brk = s.brk) (h : s.BrkConsistent) :
    t.BrkConsistent := by
  obtain ⟨h1, h2⟩ := h
  constructor <;> rw [he, hb] <;> assumption

/-- `brk_try` leaves consistent reports wherever only armed axes have one (42_foc.md R320). -/
theorem brkConsistent_brkTry {s : State} (h : ∀ a, s.brk.reported.get a = true → s.enabled a = true) :
    (brkTry s).BrkConsistent := by
  have cleared (d : F32) : (s.setBrk { duty := d, reported := ⟨false, false⟩ }).BrkConsistent :=
    ⟨fun a ha => (by cases a <;> cases ha), fun ⟨a, ha⟩ => ⟨a, ha, by cases a <;> rfl⟩⟩
  unfold brkTry
  split_ifs with hnone hall
  · exact cleared _
  · exact cleared _
  · refine ⟨h, fun _ => ?_⟩
    simp only [Bool.and_eq_true, Bool.or_eq_true, Bool.not_eq_true', not_and_or, not_or, Bool.not_eq_true,
      Bool.not_eq_false] at hall
    rcases hall with ha | ha
    · exact ⟨.ax0, ha⟩
    · exact ⟨.ax1, ha⟩

theorem enabled_setCtl {s : State} {a : Axis} {c : CtlRegs} (h : c.enable = s.enabled a) :
    (s.setCtl a c).enabled = s.enabled := by
  funext b
  rw [State.enabled_eq, State.setCtl_axis]
  split
  next hb => rw [hb]; exact h
  next => rfl

theorem brkConsistent_disableAxis {a : Axis} {s : State} (h : s.BrkConsistent) : (disableAxis a s).BrkConsistent := by
  unfold disableAxis
  split
  · refine brkConsistent_brkTry (s := (s.setCtl a _).setBrk _) fun b hb => ?_
    rw [State.setBrk_brk, State.setCtl_brk, PerAxis.get_set] at hb
    rw [State.setBrk_enabled, State.enabled_eq, State.setCtl_axis]
    split at hb
    next => cases hb
    next hne => rw [if_neg hne]; exact h.reported_enabled b hb
  · exact h

theorem brkConsistent_brkReport {a : Axis} {s : State} (h : s.BrkConsistent) (ha : s.enabled a = true) :
    (brkReport a s).BrkConsistent := by
  refine brkConsistent_brkTry (s := s.setBrk _) fun b hb => ?_
  rw [State.setBrk_brk, PerAxis.get_set] at hb
  rw [State.setBrk_enabled]
  split at hb
  next hab => rw [hab, ha]
  next => exact h.reported_enabled b hb

/-- An axis that is armed has no report yet (44_system.md R383, R384). -/
theorem brkConsistent_arm {a : Axis} {c : CtlRegs} {s : State} (hc : c.enable = true) (h : s.BrkConsistent) :
    (s.setCtl a c).BrkConsistent := by
  cases ha : s.enabled a with
  | true => exact brkConsistent_congr (enabled_setCtl (hc.trans ha.symm)) rfl h
  | false =>
    have hself : (s.setCtl a c).enabled a = true := by rw [State.enabled_eq, State.setCtl_axis_self]; exact hc
    refine ⟨fun b hb => ?_, fun _ => ⟨a, hself, ?_⟩⟩
    · rcases Axis.eq_or_other a b with rfl | rfl
      · exact hself
      · rw [State.enabled_eq, State.setCtl_axis_other]
        exact h.reported_enabled _ hb
    · exact Bool.eq_false_iff.mpr fun hr => by rw [h.reported_enabled a hr] at ha; cases ha

/-! ### The invariant under an update of one part -/

theorem inv_of_sameBlock {s t : State} (h : SameBlock s t) (hs : s.Inv) : t.Inv where
  global := h.g ▸ hs.global
  axes a := h.axis ▸ hs.axes a
  seq := h.seq ▸ hs.seq
  brk := brkConsistent_congr h.enabled h.brk hs.brk
  mem_wf := h.mem ▸ hs.mem_wf
  mem_addr := h.mem ▸ hs.mem_addr

theorem inv_setG {s : State} {g : GlobalRegs} (hs : s.Inv) (hg : g.Legal) : (s.setG g).Inv :=
  { hs with global := hg, brk := brkConsistent_congr (s := s) rfl rfl hs.brk }

theorem inv_setSeq {s : State} {r : SeqRegs} (hs : s.Inv) (hr : r.Consistent) : (s.setSeq r).Inv :=
  { hs with seq := hr, brk := brkConsistent_congr (s := s) rfl rfl hs.brk }

theorem inv_setMem {s : State} {m : Memory} (hs : s.Inv) (hwf : Memory.wf m = true)
    (haddr : ∀ c ∈ m, storageAddr c.1 = true ∨ c ∈ s.mem) : (s.setMem m).Inv :=
  { hs with
    brk := brkConsistent_congr (s := s) rfl rfl hs.brk
    mem_wf := hwf
    mem_addr := fun c hc => (haddr c hc).elim id (hs.mem_addr c) }

/-- New registers of one axis and a new `BRK`: the registers legal, the reports consistent. -/
theorem inv_setAxis_setBrk {s : State} {a : Axis} {q : AxisRegs} {r : BrkRegs} (hs : s.Inv) (hq : q.Legal)
    (hb : ((s.setAxis a q).setBrk r).BrkConsistent) : ((s.setAxis a q).setBrk r).Inv :=
  { hs with
    axes := Axis.forall_of_self_other a (by rw [State.setBrk_axis, State.setAxis_axis_self]; exact hq)
      (by rw [State.setBrk_axis, State.setAxis_axis_other]; exact hs.axes _)
    brk := hb }

theorem inv_setAxis {s : State} {a : Axis} {q : AxisRegs} (hs : s.Inv) (hq : q.Legal)
    (hb : (s.setAxis a q).BrkConsistent) : (s.setAxis a q).Inv := inv_setAxis_setBrk (r := s.brk) hs hq hb

theorem enabled_setAxis {s : State} {a : Axis} {q : AxisRegs} (h : q.ctl = (s.axis a).ctl) :
    (s.setAxis a q).enabled = s.enabled := by
  funext b
  rw [State.enabled_eq, State.enabled_eq, ctl_setAxis h]

theorem inv_plainWrite {a : Axis} {s t : State} (h : PlainWrite a s t) (hs : s.Inv) : t.Inv := by
  obtain ⟨q, rfl, hctl, hlegal⟩ := h
  exact inv_setAxis hs (hlegal (hs.axes a)) (brkConsistent_congr (enabled_setAxis hctl) rfl hs.brk)

/-- New control registers: no armed axis has a fault of the block recorded, and the reports are consistent. -/
theorem inv_setCtl {s : State} {a : Axis} {c : CtlRegs} (hs : s.Inv)
    (hc : c.enable = true → c.error &&& 0x00F#10 = 0#10) (hb : (s.setCtl a c).BrkConsistent) : (s.setCtl a c).Inv :=
  inv_setAxis hs { hs.axes a with armed_clean := hc } hb

/-- New control registers that neither arm nor disarm. -/
theorem inv_setCtl_same {s : State} {a : Axis} {c : CtlRegs} (hs : s.Inv) (he : c.enable = (s.axis a).ctl.enable)
    (hc : (s.axis a).ctl.error &&& 0x00F#10 = 0#10 → c.error &&& 0x00F#10 = 0#10) : (s.setCtl a c).Inv :=
  inv_setCtl hs (fun h => hc ((hs.axes a).armed_clean (he ▸ h))) (brkConsistent_congr (enabled_setCtl he) rfl hs.brk)

/-- Whatever error is recorded with it, a disable leaves the axis disarmed (60_exceptions.md R405, 44_system.md R384). -/
theorem inv_disableAxis_setCtl {s : State} {a : Axis} {c : CtlRegs} (hs : s.Inv) (he : c.enable = (s.axis a).ctl.enable) :
    (disableAxis a (s.setCtl a c)).Inv := by
  have hb : (disableAxis a (s.setCtl a c)).BrkConsistent :=
    brkConsistent_disableAxis (brkConsistent_congr (enabled_setCtl he) rfl hs.brk)
  rw [disableAxis_eq, State.setCtl_setCtl] at hb ⊢
  exact inv_setAxis_setBrk hs { hs.axes a with armed_clean := nofun } hb

theorem inv_faultAxis {s : State} (e : BlockError) (a : Axis) (hs : s.Inv) : (faultAxis e a s).Inv :=
  inv_disableAxis_setCtl hs rfl

/-! ### The estimator -/

/-- `ENC_POS_MOD` is below the `CPR` it was computed with (10_state.md R83, 41_pll.md R266). -/
theorem encPosMod_lt (pos : W32) {cpr : W32} (h : 1 ≤ cpr.toNat) : (encPosMod pos cpr).toNat < cpr.toNat := by
  have h0 : 0 ≤ pos.toInt % (cpr.toNat : Int) := Int.emod_nonneg _ (by omega)
  have h1 : pos.toInt % (cpr.toNat : Int) < cpr.toNat := Int.emod_lt_of_pos _ (by omega)
  have h2 : cpr.toNat < 2 ^ 32 := cpr.isLt
  rw [encPosMod, emod, BitVec.toNat_ofInt]
  omega

/-- Estimator registers with the same `CPR` and `POLE_PAIRS`, and `ENC_POS_MOD` below its bound. -/
theorem inv_setPll {s : State} {a : Axis} {r : PllRegs} (hs : s.Inv) (hcpr : r.cpr = (s.axis a).pll.cpr)
    (hpp : r.polePairs = (s.axis a).pll.polePairs) (hmod : r.encPosMod.toNat < 65536) : (s.setPll a r).Inv := by
  obtain ⟨h1, h2, h3, h4, -, h6⟩ := hs.axes a
  exact inv_plainWrite ⟨_, rfl, rfl, fun _ =>
    ⟨hcpr.symm ▸ h1, hcpr.symm ▸ h2, hpp.symm ▸ h3, hpp.symm ▸ h4, hmod, h6⟩⟩ hs

theorem encPosMod_lt_of_inv {s : State} (hs : s.Inv) (a : Axis) (pos : W32) :
    (encPosMod pos (s.axis a).pll.cpr).toNat < 65536 :=
  (encPosMod_lt pos (hs.axes a).cpr_pos).trans_le (hs.axes a).cpr_le

/-! ### The sequencer -/

theorem seqRestart_consistent {r : SeqRegs} (h : r.Consistent) : (seqRestart r).Consistent :=
  { h with not_both_done := rfl, trig := fun u => by cases u <;> rfl }

/-- The reserved bits of a fault record are 0 and its `VALID` is 1 (10_state.md R56). -/
theorem seqFaultWord_res (r : SeqRegs) (e : BitVec 16) (reason : SeqReason) :
    (seqFaultWord r e reason).extractLsb' 24 7 = 0#7 := by
  apply BitVec.eq_of_getLsbD_eq
  intro i hi
  simp only [seqFaultWord, BitVec.getLsbD_extractLsb', BitVec.getLsbD_append]
  simp
  omega

theorem seqFaultWord_valid (r : SeqRegs) (e : BitVec 16) (reason : SeqReason) :
    (seqFaultWord r e reason).getLsbD 31 = true := by
  rw [seqFaultWord, BitVec.getLsbD_append]
  rfl

/-- A unit done is set up for the next state, and the state advances when both are (40_sequencer.md R231, R233). -/
theorem seqAfterDone_consistent (u : AdcUnit) {r : SeqRegs} (h : r.Consistent) : (seqAfterDone u r).Consistent := by
  obtain ⟨-, htrig, hres, hvalid⟩ := h
  have hset (w : AdcUnit) : (r.trigSel.set u (seqAxis (r.state + 1#2))).get w =
      if (r.done.set u true).get w = true then seqAxis (r.state + 1#2) else seqAxis r.state := by
    rw [PerUnit.get_set, PerUnit.get_set]
    split
    next => rfl
    next => exact htrig w
  unfold seqAfterDone
  simp only
  split_ifs with hdone
  · refine ⟨rfl, fun w => ?_, hres, hvalid⟩
    have hw : (r.done.set u true).get w = true := by cases w <;> simp_all [PerUnit.get]
    have hnext : expectedTrig (advance r) w = seqAxis (r.state + 1#2) := by cases w <;> rfl
    exact (hset w).trans ((if_pos hw).trans hnext.symm)
  · exact ⟨by simpa using hdone, hset, hres, hvalid⟩

/-! ### The storage -/

theorem storageAddr_harm {a : Axis} {j n : Nat} (hj : j < Config.nHarm) (h0 : harmAddr a 0 + 16 * j ≤ n)
    (h1 : n < harmAddr a 0 + 16 * j + 12) : storageAddr n = true := by
  simp only [storageAddr, Config.nHarm, Bool.or_eq_true, Bool.and_eq_true, decide_eq_true_eq] at *
  cases a <;> simp only [harmAddr, Axis.toNat] at h0 h1 <;> omega

theorem storageAddr_map {a : Axis} {n : Nat} (h0 : mapAddr a 0 ≤ n) (h1 : n < mapAddr a 0 + 4 * Config.mapDepth) :
    storageAddr n = true := by
  simp only [storageAddr, Config.mapDepth, Bool.or_eq_true, Bool.and_eq_true, decide_eq_true_eq] at *
  cases a <;> simp only [mapAddr, Axis.toNat] at h0 h1 <;> omega

theorem inv_setHarmonics {s : State} (a : Axis) {hs : List Harmonic} (h : s.Inv) (hl : hs.length = Config.nHarm) :
    (s.setMem (Memory.setHarmonics s.mem (harmAddr a 0) hs)).Inv :=
  inv_setMem h (Memory.wf_setHarmonics _ _ h.mem_wf) fun _ hc =>
    (Memory.mem_setHarmonics hc).imp_left fun ⟨_, hj, h0, h1⟩ => storageAddr_harm (hl ▸ hj) h0 h1

theorem inv_setMap {s : State} (a : Axis) {vs : List F32} (h : s.Inv) (hl : vs.length ≤ Config.mapDepth) :
    (s.setMem (Memory.setWords s.mem (mapAddr a 0) vs)).Inv :=
  inv_setMem h (Memory.wf_setWords _ _ h.mem_wf) fun _ hc =>
    (Memory.mem_setWords hc).imp_left fun ⟨h0, h1⟩ => storageAddr_map h0 (by omega)

/-! ### Every update keeps the invariant -/

theorem inv_setSamp {s : State} (a : Axis) (r : SampRegs) (h : s.Inv) : (s.setSamp a r).Inv :=
  inv_plainWrite ⟨_, rfl, rfl, fun ⟨h1, h2, h3, h4, h5, h6⟩ => ⟨h1, h2, h3, h4, h5, h6⟩⟩ h

theorem Update.keeps_inv {s t : State} (hu : Update s t) (h : s.Inv) : t.Inv := by
  cases hu with
  | samp a r => exact inv_setSamp a r h
  | foc a r | pwm a r | acog a r =>
    exact inv_plainWrite ⟨_, rfl, rfl, fun ⟨h1, h2, h3, h4, h5, h6⟩ => ⟨h1, h2, h3, h4, h5, h6⟩⟩ h
  | pllInit a nan cnt => exact inv_setPll h rfl rfl (encPosMod_lt_of_inv h a _)
  | pllUpdate a nan t cnt => exact inv_setPll h rfl rfl (encPosMod_lt_of_inv h a _)
  | pllGains a kp ki => exact inv_setPll h rfl rfl (h.axes a).posMod_lt
  | status a c => exact inv_setCtl_same h rfl id
  | gStatus c =>
    obtain ⟨h1, h2, h3, h4, h5⟩ := h.global
    exact inv_setG h ⟨h1, h2, h3, h4, h5⟩
  | harmonics a hs hl => exact inv_setHarmonics a h hl
  | map a vs hl => exact inv_setMap a h hl
  | seqStart => exact inv_setSeq h (seqRestart_consistent h.seq)
  | seqRecord e reason _ =>
    obtain ⟨h1, h2, -, -⟩ := h.seq
    exact inv_setSeq h ⟨h1, h2, seqFaultWord_res _ e reason, .inr (seqFaultWord_valid _ e reason)⟩
  | seqBad =>
    obtain ⟨h1, h2, h3, h4⟩ := h.seq
    exact inv_setSeq h ⟨h1, h2, h3, h4⟩
  | seqDone u =>
    obtain ⟨a, r, ht⟩ := completeIfDone_markDone u s
    rw [ht]
    exact inv_setSeq (inv_setSamp a r h) (seqAfterDone_consistent u h.seq)
  | fault e a => exact inv_faultAxis e a h
  | report a ha =>
    have hb := brkConsistent_brkReport h.brk ha
    rw [brkReport_eq] at hb ⊢
    exact { h with brk := hb }

/-! ### Every host write keeps the invariant -/

/-- Arming needs `ERROR = 0` (44_system.md R383); disarming updates `BRK` (R384). -/
theorem inv_writeCtrl (a : Axis) (v : W32) {s : State} (h : s.Inv) : (writeCtrl a v s).Inv := by
  have hsrc : (s.setCtl a { (s.axis a).ctl with phaseSrc := v.getLsbD 1 }).Inv := inv_setCtl_same h rfl id
  unfold writeCtrl
  simp only
  split_ifs with hen herr
  · refine inv_setCtl hsrc (fun _ => ?_) (brkConsistent_arm rfl hsrc.brk)
    rw [State.setCtl_axis_self]
    exact (congrArg (· &&& 0x00F#10) herr).trans (by decide)
  · exact hsrc
  · exact inv_disableAxis_setCtl h rfl

/-- Cleared bits stay clear in what is left. -/
theorem clearError_and {e m : BitVec 10} (v : W32) (h : e &&& m = 0#10) : clearError v e &&& m = 0#10 := by
  rw [clearError, BitVec.and_assoc, BitVec.and_comm _ m, ← BitVec.and_assoc, h, BitVec.zero_and]

/-- Bits 3:0 of a word, as bits of `ERROR`. -/
theorem extract_and_mask (v : W32) : v.extractLsb' 0 10 &&& 0x00F#10 = (v.extractLsb' 0 4).setWidth 10 := by
  apply BitVec.eq_of_getLsbD_eq
  intro i hi
  interval_cases i <;> simp

theorem inv_writeErrorSet (a : Axis) (v : W32) {s : State} (h : s.Inv) : (writeErrorSet a v s).Inv := by
  unfold writeErrorSet
  split_ifs with hv
  · refine inv_setCtl_same h rfl fun hc => ?_
    have hmask : v.extractLsb' 0 10 &&& 0x00F#10 = 0#10 := by rw [extract_and_mask, hv]; rfl
    rw [BitVec.and_or_distrib_right, hc, hmask, BitVec.or_zero]
  · exact inv_disableAxis_setCtl h rfl

theorem inv_writeAxis (a : Axis) (v : W32) {s : State} (r : AxReg) (h : s.Inv) : (writeAxis a v s r).Inv := by
  rcases writeAxis_cases a v s r with rfl | rfl | rfl | hq
  · exact inv_writeCtrl a v h
  · exact inv_setCtl_same h rfl (clearError_and v)
  · exact inv_writeErrorSet a v h
  · exact inv_plainWrite hq h

/-- A word written in a storage window (20_memory.md R134, R135). -/
theorem inv_setWord {s : State} {k : BitVec 20} {n : Nat} (v : W32) (h : s.Inv) (hl : locate k = .storage n)
    (h4 : k.toNat % 4 = 0) : (s.setMem (Memory.setWord s.mem n v)).Inv :=
  inv_setMem h (Memory.wf_setWord n v h.mem_wf) fun _ hc =>
    (Memory.mem_setWord hc).imp_left fun ⟨h0, h1⟩ => locate_storage hl h4 _ h0 h1

/-- The reset values are legal (70_reset_and_hazards.md R451). -/
theorem inv_reset : State.reset.Inv where
  global := ⟨.inl rfl, by decide, by decide, by decide, by decide⟩
  axes a := by cases a <;> exact ⟨by decide, by decide, by decide, by decide, by decide, nofun⟩
  seq := ⟨rfl, fun u => by cases u <;> rfl, rfl, .inl rfl⟩
  brk := ⟨fun a h => (by cases a <;> cases h), fun ⟨a, h⟩ => (by cases a <;> cases h)⟩
  mem_wf := rfl
  mem_addr := nofun

/-- Settles O19: a step is a run of updates, a host write or a reset, and each keeps the invariant. -/
theorem everyStepKeepsTheInvariant : Obligations.EveryStepKeepsTheInvariant := by
  intro s t hs h
  have haccept (ds : List Delivery) : (s.accept ds).Inv := inv_of_sameBlock (sameBlock_accept s ds) hs
  cases step_cases h with
  | updates u hu run => exact run.keeps Update.keeps_inv (inv_of_sameBlock hu hs)
  | global k v ds r hp hl ht =>
    obtain ⟨g, hg, hlegal⟩ := writeGlobal_eq v (s.accept ds) r
    rw [ht, hg]
    exact inv_setG (haccept ds) (hlegal hs.global)
  | axis k v ds a r hp hl ht => exact ht ▸ inv_writeAxis a v r (haccept ds)
  | storage k v ds n hp hl h4 ht => exact ht ▸ inv_setWord v (haccept ds) hl h4
  | reset ds hp ht =>
    exact inv_of_sameBlock (s := State.reset) (ht ▸ ⟨rfl, rfl, rfl, rfl, rfl⟩) inv_reset

end Sys2Proof.Proofs
end

section
/-!
PROOFS. O13 to O16 and O25: what a host write to each type of register does (10_state.md R51).
-/

namespace Sys2Proof.Proofs
open Sys2Proof Sys2Proof.Machine

/-! ### The step of a host write -/

theorem step_writeGlobal {s : State} {k : BitVec 20} {v : W32} {ds : List Delivery} {off : Nat} {r : GReg}
    (hp : s.pending = .write k 32 v :: ds) (hk : k.toNat = off) (hl : globalLoc off = .global r)
    (ho : off < 0x100 := by decide) (h4 : off % 4 = 0 := by decide) :
    step s = .next (writeGlobal v (s.accept ds) r) := by
  subst hk
  rw [step_write hp (busAccepts_global ho h4), locate_global ho, hl, writeLoc]

theorem step_writeAxis {s : State} {k : BitVec 20} {v : W32} {ds : List Delivery} {a : Axis} {off : Nat} {r : AxReg}
    (hp : s.pending = .write k 32 v :: ds) (hk : k.toNat = axisAddr a off) (hl : axisLoc a off = .axis a r)
    (ho : off < 0x100 := by decide) (h4 : off % 4 = 0 := by decide) :
    step s = .next (writeAxis a v (s.accept ds) r) := by
  rw [step_write hp (busAccepts_axis hk ho h4), locate_axis hk ho, hl, writeLoc]

/-- An update of one axis only. -/
theorem onlyAxis_setAxis (s : State) (a : Axis) (q : AxisRegs) : State.OnlyAxis a s (s.setAxis a q) :=
  ⟨⟨rfl, rfl, rfl, rfl, rfl, rfl⟩, rfl, rfl, State.setAxis_axis_other s a q⟩

/-- A host write that stores new registers of its axis changes nothing else. -/
theorem step_writeAxis_setAxis {s : State} {k : BitVec 20} {v : W32} {ds : List Delivery} {a : Axis} {off : Nat}
    {r : AxReg} {q : AxisRegs} (hp : s.pending = .write k 32 v :: ds) (hk : k.toNat = axisAddr a off)
    (hl : axisLoc a off = .axis a r) (hq : writeAxis a v (s.accept ds) r = (s.accept ds).setAxis a q)
    (ho : off < 0x100 := by decide) (h4 : off % 4 = 0 := by decide) :
    ∃ t, step s = .next t ∧ State.OnlyAxis a (s.accept ds) t ∧ t.brk = s.brk ∧ s.SameBytes t ∧ t.axis a = q :=
  ⟨_, (step_writeAxis hp hk hl ho h4).trans (congrArg _ hq), onlyAxis_setAxis _ a q, rfl, fun _ => rfl,
    State.setAxis_axis_self _ a q⟩

/-! ### Read-only registers and registers of `RW` fields -/

theorem axisLoc_tlog {a : Axis} {off : Nat} (h0 : 0xC0 ≤ off) (h1 : off ≤ 0xFC) :
    axisLoc a off = .axis a (.tlog ((off - 0xC0) / 4)) := by
  unfold axisLoc
  split
  case h_48 => exact if_pos ⟨h0, by simp only [Config.logDepth]; omega⟩
  all_goals omega

/-- The read-only global registers (10_state.md section 2). -/
theorem writeGlobal_readOnly : ∀ off ∈ [0x00, 0x08, 0x0C, 0x10, 0x14, 0x1C, 0x38, 0x3C, 0x40],
    off < 0x100 ∧ off % 4 = 0 ∧ ∃ r, globalLoc off = .global r ∧ ∀ v s, writeGlobal v s r = s := by
  simp only [List.forall_mem_cons]
  refine ⟨?_, ?_, ?_, ?_, ?_, ?_, ?_, ?_, ?_, nofun⟩
  all_goals exact ⟨by decide, by decide, _, rfl, fun _ _ => rfl⟩

/-- The read-only registers of an axis but the timing log (10_state.md section 3). -/
theorem writeAxis_readOnly (a : Axis) : ∀ off ∈ [0x04, 0x24, 0x28, 0x38, 0x3C, 0x40, 0x44, 0x78, 0x7C, 0x80, 0x84,
      0x88, 0x9C, 0xA0, 0xA4, 0xA8, 0xAC, 0xB8],
    off < 0x100 ∧ off % 4 = 0 ∧ ∃ r, axisLoc a off = .axis a r ∧ ∀ v s, writeAxis a v s r = s := by
  simp only [List.forall_mem_cons]
  refine ⟨?_, ?_, ?_, ?_, ?_, ?_, ?_, ?_, ?_, ?_, ?_, ?_, ?_, ?_, ?_, ?_, ?_, ?_, nofun⟩
  all_goals exact ⟨by decide, by decide, _, rfl, fun _ _ => rfl⟩

/-- The low bits of a word, and the word without its reserved bits. -/
theorem setWidth_extractLsb' (v : W32) {n : Nat} (h : n ≤ 32) :
    (v.extractLsb' 0 n).setWidth 32 = v &&& BitVec.ofNat 32 (2 ^ n - 1) := by
  have hn : 2 ^ n ≤ 2 ^ 32 := Nat.pow_le_pow_right (by decide) h
  have hlt : v.toNat % 2 ^ n < 2 ^ n := Nat.mod_lt _ (by positivity)
  have hmask : 2 ^ n - 1 < 2 ^ 32 := by omega
  apply BitVec.eq_of_toNat_eq
  rw [BitVec.toNat_and, BitVec.toNat_setWidth, BitVec.extractLsb'_toNat, BitVec.toNat_ofNat, Nat.shiftRight_zero,
    Nat.mod_eq_of_lt hmask, Nat.mod_eq_of_lt (hlt.trans_le hn), Nat.and_two_pow_sub_one_eq_mod]

theorem bitAt_getLsbD_zero (v : W32) : bitAt (v.getLsbD 0) 0 = v &&& 1#32 := by
  apply BitVec.eq_of_getLsbD_eq
  intro i hi
  cases h : v.getLsbD 0 <;> cases i <;> simp_all [bitAt]

/-- A register whose fields are all `RW` (10_state.md R51): it stands at the offset `p.1` of axis `a`, a write of `v` stores
`p.2.2`, and then it reads `p.2.1`. -/
def StoresField (s : State) (a : Axis) (v : W32) (p : Nat × W32 × AxisRegs) : Prop :=
  ∃ r, axisLoc a p.1 = .axis a r ∧ p.1 < 0x100 ∧ p.1 % 4 = 0 ∧
    (∀ ds, writeAxis a v (s.accept ds) r = (s.accept ds).setAxis a p.2.2) ∧
    ∀ t : State, t.axis a = p.2.2 → readAxis t a r = p.2.1

/-- A field stored reads back, and nothing else changes. -/
theorem StoresField.readsBack {s : State} {a : Axis} {v : W32} {p : Nat × W32 × AxisRegs} (h : StoresField s a v p)
    {k : BitVec 20} {ds : List Delivery} (hp : s.pending = .write k 32 v :: .read k 32 :: ds)
    (hk : k.toNat = axisAddr a p.1) :
    ∃ t u, step s = .next t ∧ step t = .next u ∧ State.OnlyAxis a (s.accept (.read k 32 :: ds)) t ∧
      t.brk = s.brk ∧ s.SameBytes t ∧ t.axis a = p.2.2 ∧ u.bus = { error := false, rdata := some p.2.1 } := by
  obtain ⟨r, hl, ho, h4, hw, hr⟩ := h
  obtain ⟨t, ht, honly, hbrk, hbytes, hax⟩ := step_writeAxis_setAxis hp hk hl (hw _) ho h4
  have hpt : t.pending = .read k 32 :: ds := honly.inputs.pending
  refine ⟨t, _, ht, step_read hpt (busAccepts_axis hk ho h4), honly, hbrk, hbytes, hax, ?_⟩
  rw [State.setBus_bus, locate_axis hk ho, hl, readLoc, hr (t.take ds) hax]

theorem storesField {s : State} {a : Axis} {v w : W32} {off : Nat} {q : AxisRegs} {r : AxReg}
    (hl : axisLoc a off = .axis a r) (hw : ∀ ds, writeAxis a v (s.accept ds) r = (s.accept ds).setAxis a q)
    (hr : ∀ t : State, t.axis a = q → readAxis t a r = w) (ho : off < 0x100 := by decide)
    (h4 : off % 4 = 0 := by decide) : StoresField s a v (off, w, q) := ⟨r, hl, ho, h4, hw, hr⟩

/-- A global register whose fields are all `RW` is stored and reads back. -/
theorem readsBack_global {s : State} {k : BitVec 20} {v w : W32} {ds : List Delivery} {off : Nat} {g : GlobalRegs}
    {r : GReg} (hp : s.pending = .write k 32 v :: .read k 32 :: ds) (hk : k.toNat = off) (hl : globalLoc off = .global r)
    (hw : ∀ t : State, t.g = s.g → writeGlobal v t r = t.setG g) (hr : ∀ t : State, t.g = g → readGlobal t r = w)
    (ho : off < 0x100 := by decide) (h4 : off % 4 = 0 := by decide) :
    ∃ t u, step s = .next t ∧ step t = .next u ∧ t = { s.accept (.read k 32 :: ds) with g := g } ∧
      u.bus = { error := false, rdata := some w } := by
  have ht := (step_writeGlobal hp hk hl ho h4).trans (congrArg _ (hw _ rfl))
  subst hk
  refine ⟨_, _, ht, step_read rfl (busAccepts_global ho h4), rfl, ?_⟩
  rw [State.setBus_bus, locate_global ho, hl, readLoc, hr _ rfl]

/-- Settles O13: a read-only register's write is the identity, and each `RW` register is its row of `StoresField`. -/
theorem hostWritesActByTheRegisterType : Obligations.HostWritesActByTheRegisterType := by
  refine ⟨fun s k v ds hp hk => ?readOnly, fun s k v ds hp => ⟨?global, fun a => ?axis⟩⟩
  case readOnly =>
    rcases hk with hk | ⟨a, off, hk, hoff | ⟨h0, h1, h4⟩⟩
    · obtain ⟨ho, h4, r, hl, hw⟩ := writeGlobal_readOnly _ hk
      rw [step_writeGlobal hp rfl hl ho h4, hw]
    · obtain ⟨ho, h4, r, hl, hw⟩ := writeAxis_readOnly a off hoff
      rw [step_writeAxis hp hk hl ho h4, hw]
    · rw [step_writeAxis hp hk (axisLoc_tlog h0 h1) (by omega) h4]
      rfl
  case global =>
    simp only [List.forall_mem_cons]
    refine ⟨fun hk => ?irqEn, fun hk => ?vbus, List.forall_mem_nil _⟩
    case irqEn =>
      exact readsBack_global hp hk rfl (fun t ht => by rw [writeGlobal, ht]) fun t ht => by
        rw [readGlobal, ht]; exact setWidth_extractLsb' v (by decide)
    case vbus =>
      exact readsBack_global hp hk rfl (fun t ht => by rw [writeGlobal, ht]) fun t ht => by rw [readGlobal, ht]
  case axis =>
    suffices h : ∀ p ∈ _, StoresField s a v p from fun p hmem hk => (h p hmem).readsBack hp hk
    simp only [List.forall_mem_cons]
    refine ⟨?_, ?_, ?_, ?_, ?_, ?_, ?_, ?_, ?_, ?_, ?_, ?_, ?_, ?_, ?_, ?_, ?_, ?_, ?period, ?deadline, ?acogCtrl, ?_,
      List.forall_mem_nil _⟩
    case period | deadline =>
      exact storesField rfl (fun _ => rfl) fun t ht => by
        rw [readAxis, ht]; exact setWidth_extractLsb' v (by decide)
    case acogCtrl => exact storesField rfl (fun _ => rfl) fun t ht => by rw [readAxis, ht]; exact bitAt_getLsbD_zero v
    all_goals exact storesField rfl (fun _ => rfl) fun t ht => by rw [readAxis, ht]

/-! ### The configuration registers -/

theorem legalPositive_iff {v : F32} : legalPositive v = true ↔ isFinite v = true ∧ flt fZero v = true :=
  Bool.and_eq_true_iff

theorem legalNonneg_iff {v : F32} : legalNonneg v = true ↔ isFinite v = true ∧ fle fZero v = true :=
  Bool.and_eq_true_iff

theorem legalFraction_iff {v : F32} :
    legalFraction v = true ↔ isFinite v = true ∧ fle fZero v = true ∧ fle v fOne = true := by
  rw [legalFraction, fge, Bool.and_eq_true_iff, Bool.and_eq_true_iff, and_assoc]

/-- Settles O14: each register is one `if` on its legal values. -/
theorem configurationRegistersTakeOnlyLegalValues : Obligations.ConfigurationRegistersTakeOnlyLegalValues := by
  intro s k v ds hp
  refine ⟨fun hk => ?_, fun hk => ?_, fun hk => ?_, fun hk => ?_, fun hk => ?_⟩
  all_goals
    rw [step_writeGlobal hp hk rfl]
    simp only [writeGlobal, legalPositive_iff, legalNonneg_iff, legalFraction_iff]
    split <;> rfl

/-! ### `CPR` and `POLE_PAIRS` -/

theorem and_decide_eq_ite (b : Bool) (c : Prop) [Decidable c] : (b && decide c) = if c then b else false := by
  by_cases h : c <;> simp [h]

/-- Settles O15: each write is one `if` between the new registers of its axis and the old. -/
theorem cprAndPolePairsAreLockedWhileEnabled : Obligations.CprAndPolePairsAreLockedWhileEnabled := by
  intro s a k v ds hp
  have hold : s.accept ds = (s.accept ds).setAxis a (s.axis a) := (State.setAxis_own (s.accept ds) a).symm
  refine ⟨fun hk => step_writeAxis_setAxis hp hk (r := .cpr) rfl ?cpr,
    fun hk => step_writeAxis_setAxis hp hk (r := .polePairs) rfl ?polePairs, by cases a <;> rfl, by cases a <;> rfl⟩
  case cpr =>
    by_cases h : (s.axis a).ctl.enable = false ∧ 1 ≤ v.toNat ∧ v.toNat ≤ 65536
    · rw [if_pos h, ← and_decide_eq_ite]
      exact if_pos h
    · rw [if_neg h]
      exact (if_neg h).trans hold
  case polePairs =>
    by_cases h : (s.axis a).ctl.enable = false ∧ 1 ≤ v.toNat ∧ v.toNat ≤ 65535
    · rw [if_pos h]
      exact if_pos h
    · rw [if_neg h]
      exact (if_neg h).trans hold

/-! ### `STATUS` and `ERROR` -/

/-- A flag that a written 1 clears (10_state.md R51, `W1C`). -/
theorem clearStatus_eq (v : W32) (r : SampRegs) :
    clearStatus v r = { r with
      ready := if v.getLsbD 0 then false else r.ready
      overrun := if v.getLsbD 1 then false else r.overrun } := by
  have h (b c : Bool) : (b && !c) = if c then false else b := by cases b <;> cases c <;> rfl
  rw [clearStatus, h, h]

theorem getLsbD_clearError (v : W32) (e : BitVec 10) (i : Nat) :
    (clearError v e).getLsbD i = (e.getLsbD i && !v.getLsbD i) := by
  by_cases hi : i < 10
  · simp [clearError, hi]
  · simp [BitVec.getLsbD_of_ge _ i (Nat.le_of_not_lt hi)]

/-- `ERROR` reads as it was, without the bits the write names (10_state.md R51). -/
theorem setWidth_clearError (v : W32) (e : BitVec 10) : (clearError v e).setWidth 32 = e.setWidth 32 &&& ~~~v := by
  apply BitVec.eq_of_getLsbD_eq
  intro i hi
  simp [getLsbD_clearError, hi]

theorem ne_zero_iff_getLsbD {n : Nat} (e : BitVec n) : e ≠ 0#n ↔ ∃ i, e.getLsbD i = true := by
  refine ⟨fun h => ?_, fun ⟨i, hi⟩ h => by simp [h] at hi⟩
  by_contra hc
  simp only [not_exists, Bool.not_eq_true] at hc
  exact h (BitVec.eq_of_getLsbD_eq fun i _ => by rw [hc i, BitVec.getLsbD_zero])

/-- `irq_fault` stands when enabled with some bit of either axis set (60_exceptions.md R410). -/
theorem irqFaultPort_iff (s : State) :
    irqFaultPort s = true ↔ s.g.irqEn.getLsbD 2 = true ∧ ∃ a i, (s.axis a).ctl.error.getLsbD i = true := by
  have hflag : faultFlag s = true ↔ ∃ a, (s.axis a).ctl.error ≠ 0#10 := by
    simp only [faultFlag, Bool.or_eq_true, bne_iff_ne]
    exact ⟨fun h => h.elim (⟨.ax0, ·⟩) (⟨.ax1, ·⟩), fun ⟨a, h⟩ => by cases a <;> simp [h]⟩
  simp only [irqFaultPort, Bool.and_eq_true, hflag, ne_zero_iff_getLsbD, and_comm]

/-- Settles O16: `W1C` is a conjunction with the complement, bit by bit and as read; `irq_fault` is `irqFaultPort_iff`. -/
theorem statusAndErrorWritesClearTheNamedBits : Obligations.StatusAndErrorWritesClearTheNamedBits := by
  intro s a k v ds hp
  refine ⟨fun hk => ?status, fun hk => ?error⟩
  case status =>
    obtain ⟨t, ht, honly, hbrk, hbytes, hax⟩ := step_writeAxis_setAxis hp hk (r := .status) rfl rfl
    refine ⟨t, ht, honly, hbrk, hbytes, ?_, fun hv => ?_⟩
    · rw [hax, clearStatus_eq]; rfl
    · simp [irqReadyPort, hax, clearStatus, hv]
  case error =>
    obtain ⟨t, ht, honly, hbrk, hbytes, hax⟩ := step_writeAxis_setAxis hp hk (r := .error) rfl rfl
    refine ⟨t, ht, honly, hbrk, hbytes, ?_, fun i => ?_, ?_, ?_⟩
    · rw [hax]; rfl
    · rw [hax]; exact getLsbD_clearError v _ i
    · rw [readAxis, hax]; exact setWidth_clearError v _
    · rw [irqFaultPort_iff, honly.g]; rfl

/-! ### `ERROR_SET` -/

/-- `BRK` after the disable of an armed axis, said of the whole step (44_system.md R384, 42_foc.md R320). -/
theorem disableAxis_brk_eq_brkAfterDisarm {a : Axis} {s : State} (h : s.enabled a = true) :
    (disableAxis a s).brk = brkAfterDisarm a s (disableAxis a s) := by
  have hduty : brakeDutyOf (disableAxis a s) = brakeDutyOf (s.setCtl a { (s.axis a).ctl with enable := false }) := by
    rw [disableAxis_eq, brakeDutyOf_setBrk]
  rw [brkAfterDisarm, disableAxis_brk_of_enabled h, hduty, State.enabled_eq]
  split_ifs with hother hrep
  · rfl
  · rfl
  · congr 1
    refine PerAxis.ext_get (Axis.forall_of_self_other a ?_ ?_)
    · rw [PerAxis.get_set_self]; cases a <;> rfl
    · rw [PerAxis.get_set_other, Bool.eq_false_iff.mpr hrep]; cases a <;> rfl

/-- It reads of the state before the disarming the other axis and `BRK`. -/
theorem brkAfterDisarm_congr {a : Axis} {s s' : State} (hax : s'.axis a.other = s.axis a.other) (hbrk : s'.brk = s.brk)
    (t : State) : brkAfterDisarm a s' t = brkAfterDisarm a s t := by
  unfold brkAfterDisarm
  rw [hax, hbrk]

/-- An update of one axis and of `BRK`. -/
theorem onlyAxis_setAxis_setBrk (s : State) (a : Axis) (q : AxisRegs) (r : BrkRegs) :
    State.OnlyAxis a s ((s.setAxis a q).setBrk r) :=
  ⟨⟨rfl, rfl, rfl, rfl, rfl, rfl⟩, rfl, rfl, State.setAxis_axis_other s a q⟩

/-- What `ERROR_SET` does: the bits, `ENABLE` and `BRK` (10_state.md R74). -/
theorem writeErrorSet_eq (a : Axis) (v : W32) (s : State) :
    writeErrorSet a v s = (s.setCtl a { (s.axis a).ctl with
        error := (s.axis a).ctl.error ||| v.extractLsb' 0 10
        enable := (s.axis a).ctl.enable && decide (v.extractLsb' 0 4 = 0#4) }).setBrk (writeErrorSet a v s).brk := by
  unfold writeErrorSet
  split_ifs with hv
  · simp [hv, orError]
    rfl
  · conv_lhs => rw [disableAxis_eq, orError, State.setCtl_setCtl, State.setCtl_axis_self]
    simp [hv]
    rfl

/-- `BRK` after `ERROR_SET` (10_state.md R74, 44_system.md R384). -/
theorem writeErrorSet_brk (a : Axis) (v : W32) (s : State) :
    (writeErrorSet a v s).brk =
      if v.extractLsb' 0 4 = 0#4 ∨ (s.axis a).ctl.enable = false then s.brk
      else brkAfterDisarm a s (writeErrorSet a v s) := by
  have hen : (orError a (v.extractLsb' 0 10) s).enabled = s.enabled := enabled_setCtl rfl
  unfold writeErrorSet
  by_cases hv : v.extractLsb' 0 4 = 0#4
  · rw [if_pos hv, if_pos (.inl hv)]
    rfl
  rw [if_neg hv]
  cases ha : s.enabled a with
  | false => rw [disableAxis_brk_of_disabled (hen ▸ ha), if_pos (.inr ha)]; rfl
  | true =>
    have hne : ¬(v.extractLsb' 0 4 = 0#4 ∨ (s.axis a).ctl.enable = false) := by
      rw [← State.enabled_eq, ha]; simp [hv]
    rw [disableAxis_brk_eq_brkAfterDisarm (hen ▸ ha), if_neg hne]
    exact brkAfterDisarm_congr (State.setCtl_axis_other s a _) rfl _

/-- Settles O25: the next state is `writeErrorSet_eq`, its `BRK` `writeErrorSet_brk`. -/
theorem errorSetRecordsAndDisarms : Obligations.ErrorSetRecordsAndDisarms := by
  intro s a k v ds hp hk
  have ht : step s = .next (writeErrorSet a v (s.accept ds)) := step_writeAxis hp hk (r := .errorSet) rfl
  have hbrk := writeErrorSet_brk a v (s.accept ds)
  have heq := writeErrorSet_eq a v (s.accept ds)
  generalize writeErrorSet a v (s.accept ds) = t at ht hbrk heq
  refine ⟨t, ht, ?_, ?_, ?_, hbrk, rfl⟩
  · rw [heq]; exact onlyAxis_setAxis_setBrk _ a _ _
  · intro n; rw [heq]; rfl
  · rw [heq, State.setBrk_axis, State.setCtl_axis_self]; rfl

end Sys2Proof.Proofs
end

section
/-!
PROOFS. O6 and O8 to O12: which accesses are taken, that a read only answers, where a written word goes, and the command
ports (20_memory.md).
-/

namespace Sys2Proof.Proofs
open Sys2Proof Sys2Proof.Machine

/-! ### Every step of an instruction or of a write has a next state -/

/-- No instruction stops the block or is refused (60_exceptions.md R400). -/
theorem exec_total (i : Instr) (s : State) : ∃ t, exec i s = .next t := by
  cases i with
  | nop a | pllInit a | pllUpdate a | gnop | seqStart => exact ⟨_, rfl⟩
  | pllSetBw a =>
    simp only [exec, execPllSetBw]
    split_ifs <;> exact ⟨_, rfl⟩
  | focStep a | voltStep a =>
    simp only [exec, execFocStep, execVoltStep]
    split
    · exact ⟨_, rfl⟩
    · split_ifs <;> exact ⟨_, rfl⟩
  | acogLookup a =>
    simp only [exec, execAcogLookup]
    split_ifs <;> exact ⟨_, rfl⟩
  | acogCompress a =>
    cases h : supportedSize (s.cprOf a) with
    | false => exact ⟨_, (execAcog_of_unsupported h).1⟩
    | true => exact ⟨_, execAcogCompress_of_supported h⟩
  | acogDecompress a =>
    cases h : supportedSize (s.cprOf a) with
    | false => exact ⟨_, (execAcog_of_unsupported h).2⟩
    | true => exact ⟨_, execAcogDecompress_of_supported h⟩
  | adcEoc chan trig unit raw =>
    rcases execAdcEoc_cases chan trig unit raw s with ⟨-, h⟩ | ⟨-, _, h⟩ | ⟨-, -, -, -, h⟩ <;> exact ⟨_, h⟩
  | adcEocForeign chan trig unit raw =>
    simp only [exec, execAdcEocForeign]
    split_ifs <;> exact ⟨_, rfl⟩

theorem runWire_of_decode {w : Wire} {i : Instr} (h : decode w = .ok i) (s : State) : runWire w s = exec i s := by
  rw [runWire, h]

/-- A word that arrives has a next state, with the same inputs and bus response. -/
theorem runWire_total (w : Wire) (s : State) : ∃ t, runWire w s = .next t ∧ s.SameInputs t := by
  cases h : decode w with
  | ok i =>
    obtain ⟨t, ht⟩ := exec_total i s
    exact ⟨t, (runWire_of_decode h s).trans ht, exec_sameInputs ht⟩
  | error e =>
    refine ⟨rejectIllegal w s, by rw [runWire, h], ?_⟩
    cases w <;> exact ⟨rfl, rfl, rfl, rfl, rfl, rfl⟩

theorem writeGlobal_sameInputs (v : W32) (s : State) (r : GReg) : s.SameInputs (writeGlobal v s r) := by
  obtain ⟨g, hg, -⟩ := writeGlobal_eq v s r
  rw [hg]
  exact ⟨rfl, rfl, rfl, rfl, rfl, rfl⟩

theorem setAxis_sameInputs (s : State) (a : Axis) (q : AxisRegs) : s.SameInputs (s.setAxis a q) :=
  ⟨rfl, rfl, rfl, rfl, rfl, rfl⟩

theorem writeCtrl_sameInputs (a : Axis) (v : W32) (s : State) : s.SameInputs (writeCtrl a v s) := by
  unfold writeCtrl
  simp only
  split_ifs
  · exact (setAxis_sameInputs s a _).trans (setAxis_sameInputs _ a _)
  · exact setAxis_sameInputs s a _
  · exact (setAxis_sameInputs s a _).trans (disableAxis_sameInputs a _)

theorem writeAxis_sameInputs (a : Axis) (v : W32) (s : State) (r : AxReg) : s.SameInputs (writeAxis a v s r) := by
  rcases writeAxis_cases a v s r with rfl | rfl | rfl | ⟨q, h, -⟩
  · exact writeCtrl_sameInputs a v s
  · exact setAxis_sameInputs s a _
  · rw [writeAxis, writeErrorSet_eq]
    exact ⟨rfl, rfl, rfl, rfl, rfl, rfl⟩
  · exact h ▸ setAxis_sameInputs s a q

/-- A write to any location has a next state, with the same inputs and bus response. -/
theorem writeLoc_total (v : W32) (s : State) (l : Loc) : ∃ t, writeLoc v s l = .next t ∧ s.SameInputs t := by
  cases l with
  | gcmd => exact runWire_total _ s
  | cmd a => exact runWire_total _ s
  | global r => exact ⟨_, rfl, writeGlobal_sameInputs v s r⟩
  | axis a r => exact ⟨_, rfl, writeAxis_sameInputs a v s r⟩
  | storage n => exact ⟨_, rfl, rfl, rfl, rfl, rfl, rfl, rfl⟩
  | hole | unmapped => exact ⟨_, rfl, State.SameInputs.refl s⟩

/-! ### Refused and accepted accesses (20_memory.md R140) -/

/-- The accesses 20_memory.md R140 refuses, the unmapped regions as R147 lists them. -/
def RefusedAccess (k : BitVec 20) (width : Nat) : Prop :=
  width ≠ 32 ∨ k.toNat % 4 ≠ 0 ∨ (0x300 ≤ k.toNat ∧ k.toNat ≤ 0x3FF) ∨ (0x800 ≤ k.toNat ∧ k.toNat ≤ 0xFFFF) ∨
    0x20000 ≤ k.toNat

theorem busAccepts_iff_not_refusedAccess (k : BitVec 20) (width : Nat) :
    busAccepts k width = true ↔ ¬RefusedAccess k width := by
  simp only [busAccepts_iff, RefusedAccess, not_or, ne_eq, not_not]

theorem busAccepts_of_refusedAccess {k : BitVec 20} {width : Nat} (h : RefusedAccess k width) :
    busAccepts k width = false :=
  Bool.eq_false_iff.mpr fun hk => (busAccepts_iff_not_refusedAccess k width).mp hk h

theorem step_read_of_refusedAccess {s : State} {k : BitVec 20} {width : Nat} {ds : List Delivery}
    (hp : s.pending = .read k width :: ds) (h : RefusedAccess k width) :
    step s = .next ((s.take ds).setBus { error := true, rdata := some 0#32 }) := by
  rw [step_deliver hp, deliver, busRead, busAccepts_of_refusedAccess h]
  rfl

theorem step_write_of_refusedAccess {s : State} {k : BitVec 20} {width : Nat} {v : W32} {ds : List Delivery}
    (hp : s.pending = .write k width v :: ds) (h : RefusedAccess k width) :
    step s = .next ((s.take ds).setBus { error := true, rdata := none }) := by
  rw [step_deliver hp, deliver, busWrite, busAccepts_of_refusedAccess h]
  rfl

/-- Settles O8: `busAccepts` is the negation of `RefusedAccess`, and no write changes the response of its acceptance. -/
theorem refusedAccessOnlyAnswersAnError : Obligations.RefusedAccessOnlyAnswersAnError := by
  intro s k width v d ds hp hd
  refine ⟨fun hr => ⟨?refusedRead, ?refusedWrite⟩, fun hr => ?accepted⟩
  case refusedRead => rintro rfl; exact step_read_of_refusedAccess hp hr
  case refusedWrite => rintro rfl; exact step_write_of_refusedAccess hp hr
  case accepted =>
    have hk : busAccepts k width = true := (busAccepts_iff_not_refusedAccess k width).mpr hr
    obtain rfl : width = 32 := ((busAccepts_iff k width).mp hk).1
    rcases hd with rfl | rfl
    · exact ⟨_, step_read hp hk, rfl⟩
    · obtain ⟨t, ht, hsame⟩ := writeLoc_total v (s.accept ds) (locate k)
      exact ⟨t, (step_write hp hk).trans ht, congrArg BusResponse.error hsame.bus⟩

/-! ### Reads (20_memory.md R143) -/

@[simp] theorem readLoc_take (s : State) (ds : List Delivery) (l : Loc) : readLoc (s.take ds) l = readLoc s l :=
  readLoc_congr (s := s) (t := s.take ds) rfl rfl rfl (fun _ => rfl) rfl l

@[simp] theorem readLoc_setBus (s : State) (r : BusResponse) (l : Loc) : readLoc (s.setBus r) l = readLoc s l :=
  readLoc_congr (s := s) (t := s.setBus r) rfl rfl rfl (fun _ => rfl) rfl l

/-- An accepted read answers the location's value of the state it is taken in. -/
theorem step_read_current {s : State} {k : BitVec 20} {ds : List Delivery} (hp : s.pending = .read k 32 :: ds)
    (hk : busAccepts k 32 = true) :
    step s = .next ((s.take ds).setBus { error := false, rdata := some (readLoc s (locate k)) }) := by
  rw [step_read hp hk, readLoc_take]

theorem locate_gcmd {k : BitVec 20} (h : k.toNat = 0x00004) : locate k = .gcmd := by
  rw [locate_global (by omega), h, globalLoc]

theorem locate_cmd {k : BitVec 20} {a : Axis} (h : k.toNat = axisAddr a 0x00) : locate k = .cmd a := by
  rw [locate_axis h (by decide), axisLoc]

/-- The write-only registers read 0 (10_state.md R53, R69, R74). -/
theorem readLoc_writeOnly {k : BitVec 20} (s : State)
    (h : k.toNat = 0x00004 ∨ ∃ a, k.toNat = axisAddr a 0x00 ∨ k.toNat = axisAddr a 0x14) :
    readLoc s (locate k) = 0#32 := by
  rcases h with h | ⟨a, h | h⟩
  · rw [locate_gcmd h, readLoc]
  · rw [locate_cmd h, readLoc]
  · rw [locate_axis h (by decide), axisLoc, readLoc, readAxis]

/-- Settles O9: the value read shows neither the delivery taken nor the response of the first read. -/
theorem readsHaveNoSideEffects : Obligations.ReadsHaveNoSideEffects := by
  intro s k ds hk hp
  refine ⟨_, _, step_read_current hp hk, step_read_current rfl hk, rfl, ?_, fun hw => ?_⟩
  · rw [readLoc_setBus, readLoc_take, State.setBus_bus]
  · rw [State.setBus_bus, readLoc_writeOnly s hw]

/-! ### Words of the storage, and holes (20_memory.md R134 to R136) -/

theorem busAccepts_of_locate {k : BitVec 20} {l : Loc} (hl : locate k = l) (h4 : k.toNat % 4 = 0)
    (hm : l ≠ .unmapped := by simp) : busAccepts k 32 = true := by
  simp [busAccepts, hl, h4, hm]

theorem step_write_hole {s : State} {k : BitVec 20} {v : W32} {ds : List Delivery}
    (hp : s.pending = .write k 32 v :: ds) (hl : locate k = .hole) (h4 : k.toNat % 4 = 0) :
    step s = .next (s.accept ds) := by
  rw [step_write hp (busAccepts_of_locate hl h4), hl, writeLoc]

theorem step_read_hole {s : State} {k : BitVec 20} {ds : List Delivery} (hp : s.pending = .read k 32 :: ds)
    (hl : locate k = .hole) (h4 : k.toNat % 4 = 0) :
    step s = .next ((s.take ds).setBus { error := false, rdata := some 0#32 }) := by
  rw [step_read_current hp (busAccepts_of_locate hl h4), hl, readLoc]

/-- The state after an accepted write of a word of `MAP` or `HARM`. -/
def afterStore (s : State) (n : Nat) (v : W32) (ds : List Delivery) : State :=
  (s.accept ds).setMem (Memory.setWord s.mem n v)

theorem afterStore_byteAt (s : State) {n m : Nat} (v : W32) (ds : List Delivery) (h : ¬(n ≤ m ∧ m < n + 4)) :
    (afterStore s n v ds).byteAt m = s.byteAt m := State.byteAt_setWord (s.accept ds) n m v h

theorem afterStore_wordAt (s : State) (n : Nat) (v : W32) (ds : List Delivery) :
    (afterStore s n v ds).wordAt n = v := State.wordAt_setWord (s.accept ds) n v

theorem step_write_storage {s : State} {k : BitVec 20} {v : W32} {ds : List Delivery} {n : Nat}
    (hp : s.pending = .write k 32 v :: ds) (hl : locate k = .storage n) (h4 : k.toNat % 4 = 0) :
    step s = .next (afterStore s n v ds) := by
  rw [step_write hp (busAccepts_of_locate hl h4), hl, writeLoc]
  rfl

/-- A word of the storage read right after its write (20_memory.md R137). -/
theorem step_read_afterStore {s : State} {k : BitVec 20} {v : W32} {ds : List Delivery} {n : Nat}
    (hl : locate k = .storage n) (h4 : k.toNat % 4 = 0) :
    step (afterStore s n v (.read k 32 :: ds)) =
      .next (((afterStore s n v (.read k 32 :: ds)).take ds).setBus { error := false, rdata := some v }) := by
  rw [step_read_current rfl (busAccepts_of_locate hl h4), hl, readLoc, afterStore_wordAt]

/-- Settles O10: every word of a map window is storage, at its own address. -/
theorem mapWordReadsBackAsWritten : Obligations.MapWordReadsBackAsWritten := by
  intro s a i v k ds hi hk hp
  have hl : locate k = .storage k.toNat := locate_map hk (by omega)
  have h4 : k.toNat % 4 = 0 := by omega
  have hentry : (afterStore s k.toNat v (.read k 32 :: ds)).mapEntry a i = v := by
    rw [State.mapEntry, mapAddr, ← hk, afterStore_wordAt]
  exact ⟨_, _, step_write_storage hp hl h4, step_read_afterStore hl h4, rfl, hentry,
    fun n hn => afterStore_byteAt s v _ hn, rfl, rfl, rfl, rfl⟩

/-- A word of a harmonic window: a field of an entry below `N_HARM`, else reserved (20_memory.md R135). -/
theorem locate_harmWord {k : BitVec 20} {a : Axis} {j f : Nat} (hj : j < 32) (hf : f < 4)
    (hk : k.toNat = 0x00400 + 0x200 * a.toNat + 16 * j + 4 * f) :
    locate k = if j < 8 ∧ f < 3 then .storage k.toNat else .hole := by
  have hentry : (16 * j + 4 * f) / 16 = j := by omega
  have hfield : (16 * j + 4 * f) % 16 < 12 ↔ f < 3 := by omega
  rw [locate_harm (a := a) (off := 16 * j + 4 * f) (by omega) (by omega), hentry]
  simp only [hfield]

/-- Settles O11: a word of a harmonic window is storage or a hole (`locate_harmWord`). -/
theorem harmonicWindowReadsBackItsFields : Obligations.HarmonicWindowReadsBackItsFields := by
  intro s a j f v k ds hj hf hk hp
  have hl := locate_harmWord hj hf hk
  have h4 : k.toNat % 4 = 0 := by omega
  split_ifs at hl ⊢ with hc
  · exact ⟨_, _, step_write_storage hp hl h4, step_read_afterStore hl h4, rfl, rfl, rfl, rfl, rfl,
      fun n hn => afterStore_byteAt s v _ hn⟩
  · exact ⟨_, _, step_write_hole hp hl h4, step_read_hole rfl hl h4, rfl, rfl, rfl, rfl, rfl, fun _ => rfl⟩

/-- The offsets after the last global register (20_memory.md R132). -/
theorem globalLoc_hole {n : Nat} (h : 0x44 ≤ n) : globalLoc n = .hole := by
  unfold globalLoc
  split
  case h_18 => rfl
  all_goals omega

/-- The holes of the global block and of the axis blocks (20_memory.md R132, R133). -/
theorem locate_hole {k : BitVec 20} (h : (0x44 ≤ k.toNat ∧ k.toNat ≤ 0xFC) ∨ ∃ a, k.toNat = axisAddr a 0xBC) :
    locate k = .hole := by
  rcases h with ⟨h0, h1⟩ | ⟨a, h⟩
  · rw [locate_global (by omega), globalLoc_hole h0]
  · rw [locate_axis h (by decide)]
    rfl

/-- Settles O12: each of the addresses is a hole (`locate_hole`). -/
theorem holesReadZeroAndIgnoreWrites : Obligations.HolesReadZeroAndIgnoreWrites := by
  intro s k v ds h4 hk hp
  have hl := locate_hole hk
  exact ⟨step_write_hole hp hl h4, step_read_hole rfl hl h4⟩

/-! ### The command ports and `adc_evt` (30_encoding.md R180) -/

/-- Settles O6: each port hands its word to `runWire`, which runs what the word decodes to. -/
theorem stepRunsTheDecodedInstruction : Obligations.StepRunsTheDecodedInstruction := by
  refine fun s ds i => ⟨fun a k w hp hk hi => ?axis, fun k w hp hk hi => ?global, fun e hp hi => ?event⟩
  case axis =>
    have h4 : k.toNat % 4 = 0 := by rw [hk, axisAddr]; omega
    rw [step_write hp (busAccepts_of_locate (locate_cmd hk) h4), locate_cmd hk, writeLoc,
      runWire_of_decode hi]
  case global =>
    have h4 : k.toNat % 4 = 0 := by omega
    rw [step_write hp (busAccepts_of_locate (locate_gcmd hk) h4), locate_gcmd hk, writeLoc, runWire_of_decode hi]
  case event => rw [step_event hp, runWire_of_decode hi]

end Sys2Proof.Proofs
end

section
/-!
PROOFS. O1 to O5: the decoder inverts the encoder, and an illegal command word only sets a status (30_encoding.md).
-/

namespace Sys2Proof.Proofs
open Sys2Proof Sys2Proof.Machine

/-! ### The fields of a word (30_encoding.md R181, R184) -/

/-- A command word with `RSV = 0` is its `OPC`. -/
theorem word_eq_of_cmdRsv_cmdOpc {w : W32} {n : Nat} (hrsv : cmdRsv w = 0#24) (hopc : (cmdOpc w).toNat = n) :
    w = BitVec.ofNat 32 n := by
  have hhigh : w.toNat / 256 = 0 := by
    have := congrArg BitVec.toNat hrsv
    simp only [cmdRsv, BitVec.extractLsb'_toNat, Nat.shiftRight_eq_div_pow, BitVec.toNat_ofNat] at this
    omega
  have hlow : w.toNat % 256 = n := by simpa [cmdOpc, BitVec.extractLsb'_toNat] using hopc
  apply BitVec.eq_of_toNat_eq
  rw [BitVec.toNat_ofNat]
  omega

@[simp] theorem evtRaw_evtWord (chan trig : Axis) (unit : BitVec 2) (raw : BitVec 12) :
    evtRaw (evtWord chan trig unit raw) = raw := by
  ext i hi
  simp only [evtRaw, evtWord, BitVec.getElem_extractLsb', BitVec.getLsbD_append]
  simp [show i < 14 by omega, show i < 15 by omega, hi]

@[simp] theorem evtUnit_evtWord (chan trig : Axis) (unit : BitVec 2) (raw : BitVec 12) :
    evtUnit (evtWord chan trig unit raw) = unit := by
  ext i hi
  simp only [evtUnit, evtWord, BitVec.getElem_extractLsb', BitVec.getLsbD_append]
  simp [show 12 + i < 14 by omega, show 12 + i < 15 by omega, hi]

@[simp] theorem evtTrig_evtWord (chan trig : Axis) (unit : BitVec 2) (raw : BitVec 12) :
    evtTrig (evtWord chan trig unit raw) = trig := by
  simp only [evtTrig, evtWord, BitVec.getLsbD_append]
  simp

@[simp] theorem evtChan_evtWord (chan trig : Axis) (unit : BitVec 2) (raw : BitVec 12) :
    evtChan (evtWord chan trig unit raw) = chan := by
  simp only [evtChan, evtWord, BitVec.getLsbD_append]
  simp

/-- The four fields cover an event word. -/
theorem evtWord_fields (e : BitVec 16) : evtWord (evtChan e) (evtTrig e) (evtUnit e) (evtRaw e) = e := by
  apply BitVec.eq_of_getLsbD_eq
  intro i hi
  simp only [evtWord, evtChan, evtTrig, evtUnit, evtRaw, Axis.toBool_ofBool, BitVec.getLsbD_append,
    BitVec.getLsbD_extractLsb', BitVec.getLsbD_ofBool]
  split_ifs with htrig hunit hraw
  · simp [hraw]
  · simp [show i - 12 < 2 by omega, show 12 + (i - 12) = i by omega]
  · simp [show i = 14 by omega]
  · simp [show i = 15 by omega]

theorem evtUnit_getLsbD_one (e : BitVec 16) : (evtUnit e).getLsbD 1 = e.getLsbD 13 := by
  simp [evtUnit]

/-- What the word of four fields decodes to. -/
theorem decodeEvt_evtWord (chan trig : Axis) (unit : BitVec 2) (raw : BitVec 12) :
    decodeEvt (evtWord chan trig unit raw) =
      if unit.getLsbD 1 then .adcEocForeign chan trig unit raw else .adcEoc chan trig unit raw := by
  rw [decodeEvt, Laws.evtWord_bit13, evtChan_evtWord, evtTrig_evtWord, evtUnit_evtWord, evtRaw_evtWord]

/-! ### The decoder inverts the encoder, port by port (30_encoding.md R192) -/

theorem decodeCmd_eq_ok_iff {a : Axis} {w : W32} {i : Instr} : decodeCmd a w = .ok i ↔ encode i = .cmd a w := by
  constructor
  case mp =>
    intro h
    unfold decodeCmd at h
    split_ifs at h with hrsv
    rw [not_not] at hrsv
    unfold axisOpcode at h
    split at h <;> cases h
    all_goals exact congrArg (Wire.cmd a) (word_eq_of_cmdRsv_cmdOpc hrsv ‹_›).symm
  case mpr => intro h; cases i <;> cases h <;> rfl

theorem decodeGcmd_eq_ok_iff {w : W32} {i : Instr} : decodeGcmd w = .ok i ↔ encode i = .gcmd w := by
  constructor
  case mp =>
    intro h
    unfold decodeGcmd at h
    split_ifs at h with hrsv
    rw [not_not] at hrsv
    unfold globalOpcode at h
    split at h <;> cases h
    all_goals exact congrArg Wire.gcmd (word_eq_of_cmdRsv_cmdOpc hrsv ‹_›).symm
  case mpr => intro h; cases i <;> cases h <;> rfl

theorem decodeEvt_eq_iff {e : BitVec 16} {i : Instr} :
    decodeEvt e = i ↔ i.wellFormed = true ∧ encode i = .evt e := by
  constructor
  case mp =>
    rintro rfl
    unfold decodeEvt
    split_ifs with hforeign
    · exact ⟨(evtUnit_getLsbD_one e).trans hforeign, congrArg Wire.evt (evtWord_fields e)⟩
    · refine ⟨?_, congrArg Wire.evt (evtWord_fields e)⟩
      rw [Instr.wellFormed, evtUnit_getLsbD_one, Bool.eq_false_iff.mpr hforeign, Bool.not_false]
  case mpr =>
    rintro ⟨hwf, h⟩
    cases i <;> cases h
    case adcEoc => exact (decodeEvt_evtWord _ _ _ _).trans (if_neg (by simpa [Instr.wellFormed] using hwf))
    case adcEocForeign => exact (decodeEvt_evtWord _ _ _ _).trans (if_pos hwf)

/-- Only an event can be ill-formed. -/
theorem wellFormed_of_encode_ne_evt {i : Instr} (h : ∀ e, encode i ≠ .evt e) : i.wellFormed = true := by
  cases i with
  | adcEoc | adcEocForeign => exact absurd rfl (h _)
  | _ => rfl

/-- A word decodes to `i` exactly when `i` is well-formed and has that word on that port. -/
theorem decode_eq_ok_iff {w : Wire} {i : Instr} : decode w = .ok i ↔ i.wellFormed = true ∧ encode i = w := by
  cases w with
  | cmd a w => exact decodeCmd_eq_ok_iff.trans ⟨fun h => ⟨wellFormed_of_encode_ne_evt (by simp [h]), h⟩, And.right⟩
  | gcmd w => exact decodeGcmd_eq_ok_iff.trans ⟨fun h => ⟨wellFormed_of_encode_ne_evt (by simp [h]), h⟩, And.right⟩
  | evt e => exact (iff_of_eq (Except.ok.injEq _ _)).trans decodeEvt_eq_iff

/-- Settles O1: the word of a well-formed instruction decodes to it (`decode_eq_ok_iff`, from the encoder's side). -/
theorem decodeOfEncodeIsTheInstruction : Obligations.DecodeOfEncodeIsTheInstruction :=
  fun _ hwf => decode_eq_ok_iff.mpr ⟨hwf, rfl⟩

/-- Settles O2: what a word decodes to has that word (`decode_eq_ok_iff`, from the decoder's side). -/
theorem decodedInstructionEncodesToItsWord : Obligations.DecodedInstructionEncodesToItsWord :=
  fun _ _ => decode_eq_ok_iff.mp

/-! ### The opcode maps (30_encoding.md R186, R187) -/

/-- The words of the axis commands are the rows of 30_encoding.md R186. -/
theorem decode_cmd_ok_iff (a : Axis) (w : W32) : (∃ i, decode (.cmd a w) = .ok i) ↔
    w.toNat ∈ [0x00, 0x01, 0x02, 0x03, 0x10, 0x11, 0x20, 0x21, 0x22] := by
  constructor
  case mp =>
    rintro ⟨i, h⟩
    have hword : encode i = .cmd a w := decodeCmd_eq_ok_iff.mp h
    cases i <;> cases hword <;> decide
  case mpr =>
    intro h
    rw [← BitVec.setWidth_eq w, ← BitVec.ofNat_toNat]
    generalize w.toNat = n at h
    fin_cases h
    all_goals exact ⟨_, rfl⟩

/-- The words of the global commands are the rows of 30_encoding.md R187. -/
theorem decode_gcmd_ok_iff (w : W32) : (∃ i, decode (.gcmd w) = .ok i) ↔ w.toNat ∈ [0x00, 0x01] := by
  constructor
  case mp =>
    rintro ⟨i, h⟩
    have hword : encode i = .gcmd w := decodeGcmd_eq_ok_iff.mp h
    cases i <;> cases hword <;> decide
  case mpr =>
    intro h
    rw [← BitVec.setWidth_eq w, ← BitVec.ofNat_toNat]
    generalize w.toNat = n at h
    fin_cases h
    all_goals exact ⟨_, rfl⟩

/-- Settles O3: the rows of the two command maps, and the decoder of events, which refuses no word. -/
theorem decoderAcceptsExactlyTheOpcodeMap : Obligations.DecoderAcceptsExactlyTheOpcodeMap :=
  ⟨decode_cmd_ok_iff, decode_gcmd_ok_iff, fun _ => rfl⟩

/-- Settles O4: each word is the encoder's word of its instruction. -/
theorem sampleWordsDecodeAsTheTablesSay : Obligations.SampleWordsDecodeAsTheTablesSay :=
  ⟨decodeOfEncodeIsTheInstruction (.focStep .ax0) rfl, decodeOfEncodeIsTheInstruction (.acogDecompress .ax1) rfl,
    decodeOfEncodeIsTheInstruction .seqStart rfl, decodeOfEncodeIsTheInstruction (.adcEoc .ax0 .ax0 0#2 2148#12) rfl,
    decodeOfEncodeIsTheInstruction (.adcEocForeign .ax1 .ax0 2#2 1#12) rfl⟩

/-! ### Illegal command words (30_encoding.md R188) -/

theorem runWire_of_not_decode {w : Wire} (h : ¬∃ i, decode w = .ok i) (s : State) :
    runWire w s = .next (rejectIllegal w s) := by
  cases hd : decode w with
  | ok i => exact absurd ⟨i, hd⟩ h
  | error e => rw [runWire, hd]

theorem step_write_cmd {s : State} {k : BitVec 20} {w : W32} {ds : List Delivery} {a : Axis}
    (hp : s.pending = .write k 32 w :: ds) (hk : k.toNat = axisAddr a 0) :
    step s = runWire (.cmd a w) (s.accept ds) := by
  have h4 : k.toNat % 4 = 0 := by rw [hk, axisAddr]; omega
  rw [step_write hp (busAccepts_of_locate (locate_cmd hk) h4), locate_cmd hk, writeLoc]

theorem step_write_gcmd {s : State} {k : BitVec 20} {w : W32} {ds : List Delivery}
    (hp : s.pending = .write k 32 w :: ds) (hk : k.toNat = 0x00004) :
    step s = runWire (.gcmd w) (s.accept ds) := by
  rw [step_write hp (busAccepts_of_locate (locate_gcmd hk) (by omega)), locate_gcmd hk, writeLoc]

/-- `reject` on the port of an axis (00_scope.md R14). -/
theorem onlyStatus_setStatus (s : State) (a : Axis) (c : Status) : State.OnlyStatus a c s (s.setStatus a c) :=
  ⟨onlyAxis_setAxis s a _, rfl, fun _ => rfl, State.setStatus_axis_self s a c⟩

/-- `reject` on the global port (00_scope.md R14). -/
theorem onlyGStatus_setGStatus (s : State) (c : Status) : State.OnlyGStatus c s (s.setGStatus c) :=
  ⟨⟨rfl, rfl, rfl, rfl, rfl, rfl⟩, rfl, rfl, fun _ => rfl, fun _ => rfl, rfl⟩

theorem readAxis_cmdStatus_setStatus (s : State) (a : Axis) (c : Status) :
    readAxis (s.setStatus a c) a .cmdStatus = c.code.setWidth 32 := by
  rw [readAxis, State.setStatus_axis_self]

/-- Settles O5: a word outside its port's map does not decode, and its refusal sets the status of that port. -/
theorem illegalCommandWordOnlySetsTheStatus : Obligations.IllegalCommandWordOnlySetsTheStatus := by
  refine fun s k w ds hp => ⟨fun a hk hw => ?axis, fun hk hw => ?global⟩
  case axis =>
    have hreject := runWire_of_not_decode (mt (decode_cmd_ok_iff a w).mp hw) (s.accept ds)
    exact ⟨_, (step_write_cmd hp hk).trans hreject, onlyStatus_setStatus _ a _, readAxis_cmdStatus_setStatus _ a _⟩
  case global =>
    have hreject := runWire_of_not_decode (mt (decode_gcmd_ok_iff w).mp hw) (s.accept ds)
    exact ⟨_, (step_write_gcmd hp hk).trans hreject, onlyGStatus_setGStatus _ _, rfl⟩

end Sys2Proof.Proofs
end

section
/-!
PROOFS. O28: what changes `RUN` and the fault record (40_sequencer.md R234, 60_exceptions.md R406).
-/

namespace Sys2Proof.Proofs
open Sys2Proof Sys2Proof.Machine

/-! ### The commands of an axis and the host writes leave `SEQ` alone -/

@[simp] theorem brkReport_seq (a : Axis) (s : State) : (brkReport a s).seq = s.seq := by
  rw [brkReport_eq, State.setBrk_seq]

@[simp] theorem disableAxis_seq (a : Axis) (s : State) : (disableAxis a s).seq = s.seq := by
  rw [disableAxis_eq, State.setBrk_seq, State.setCtl_seq]

@[simp] theorem faultAxis_seq (e : BlockError) (a : Axis) (s : State) : (faultAxis e a s).seq = s.seq := by
  rw [faultAxis_eq, State.setBrk_seq, State.setCtl_seq]

@[simp] theorem modulationFault_seq (a : Axis) (s : State) : (modulationFault a s).seq = s.seq :=
  faultAxis_seq .modulation a s

@[simp] theorem finishStep_seq (a : Axis) (d : Duties) (s : State) : (finishStep a d s).seq = s.seq := by
  cases h : deadlineMissed a s with
  | false => rw [finishStep_of_intime h, State.setStatus_seq, brkReport_seq, logCount_commitTimings, State.setPwm_seq]
  | true => rw [finishStep_of_missed h, State.setStatus_seq, faultAxis_seq, logCount_commitTimings, State.setPwm_seq]

/-- A command of an axis leaves `SEQ` alone. -/
theorem exec_seq_of_commandAxis {i : Instr} {a : Axis} {s t : State} (hi : commandAxis i = some a)
    (h : exec i s = .next t) : t.seq = s.seq := by
  cases i with
  | nop a | pllInit a | pllUpdate a => cases h; rfl
  | pllSetBw a | acogLookup a | acogCompress a | acogDecompress a =>
    simp only [exec, execPllSetBw, execAcogLookup, execAcogCompress, execAcogDecompress] at h
    split_ifs at h <;> cases h <;> rfl
  | focStep a | voltStep a =>
    simp only [exec, execFocStep, execVoltStep] at h
    split at h
    · cases h; rfl
    · split_ifs at h <;> cases h
      · exact modulationFault_seq _ s
      · exact finishStep_seq _ _ _
  | gnop | seqStart | adcEoc | adcEocForeign => cases hi

@[simp] theorem writeGlobal_seq (v : W32) (s : State) (r : GReg) : (writeGlobal v s r).seq = s.seq := by
  obtain ⟨g, hg, -⟩ := writeGlobal_eq v s r
  rw [hg, State.setG_seq]

@[simp] theorem writeCtrl_seq (a : Axis) (v : W32) (s : State) : (writeCtrl a v s).seq = s.seq := by
  unfold writeCtrl
  simp only
  split_ifs
  · rfl
  · rfl
  · rw [disableAxis_seq, State.setCtl_seq]

@[simp] theorem writeAxis_seq (a : Axis) (v : W32) (s : State) (r : AxReg) : (writeAxis a v s r).seq = s.seq := by
  rcases writeAxis_cases a v s r with rfl | rfl | rfl | ⟨q, hq, -⟩
  · exact writeCtrl_seq a v s
  · rfl
  · rw [writeAxis, writeErrorSet_eq, State.setBrk_seq, State.setCtl_seq]
  · rw [hq, State.setAxis_seq]

/-! ### What an instruction does to `RUN` and the fault record -/

/-- `RUN` and the fault record are as before. -/
structure SameRecord (r q : SeqRegs) : Prop where
  run : q.run = r.run
  faultInfo : q.faultInfo = r.faultInfo

theorem sameRecord_of_eq {r q : SeqRegs} (h : q = r) : SameRecord r q := ⟨congrArg _ h, congrArg _ h⟩

theorem SameRecord.trans {r q p : SeqRegs} (h : SameRecord r q) (h' : SameRecord q p) : SameRecord r p :=
  ⟨h'.run.trans h.run, h'.faultInfo.trans h.faultInfo⟩

theorem completeIfDone_markDone_seq (u : AdcUnit) (s : State) :
    (completeIfDone (markDone u s)).seq = seqAfterDone u s.seq := by
  obtain ⟨a, r, h⟩ := completeIfDone_markDone u s
  rw [h, State.setSeq_seq]

theorem sameRecord_seqAfterDone (u : AdcUnit) (r : SeqRegs) : SameRecord r (seqAfterDone u r) := by
  unfold seqAfterDone
  simp only
  split_ifs <;> exact ⟨rfl, rfl⟩

theorem sameRecord_convert (ax : Axis) (u : AdcUnit) (raw : BitVec 12) (s : State) :
    SameRecord s.seq (convert ax u raw s).seq := by
  cases h : gainValid (s.axis ax).samp.currGain with
  | true => rw [convert_of_valid h]; exact ⟨rfl, rfl⟩
  | false => rw [convert_of_invalid h, gainInvalid_eq]; exact ⟨rfl, rfl⟩

theorem seqFault_run (e : BitVec 16) (reason : SeqReason) (s : State) : (seqFault e reason s).seq.run = false := by
  rw [seqFault_eq]; rfl

/-- An event leaves `RUN` and the record alone, or is the sequencing fault of a running sequencer (40_sequencer.md R234,
R235). -/
theorem event_record {e : BitVec 16} {s t : State} (h : exec (decodeEvt e) s = .next t) :
    SameRecord s.seq t.seq ∨ s.seq.run = true ∧ t.seq.run = false := by
  unfold decodeEvt at h
  split_ifs at h
  case pos =>
    simp only [exec, execAdcEocForeign] at h
    split_ifs at h with hrun <;> cases h
    · exact .inl ⟨rfl, rfl⟩
    · exact .inr ⟨by simpa using hrun, seqFault_run _ _ s⟩
  case neg =>
    rcases execAdcEoc_cases (evtChan e) (evtTrig e) (evtUnit e) (evtRaw e) s with
      ⟨-, h'⟩ | ⟨hrun, reason, h'⟩ | ⟨-, -, -, -, h'⟩ <;> cases h'.symm.trans h
    · exact .inl ⟨rfl, rfl⟩
    · exact .inr ⟨hrun, seqFault_run _ reason s⟩
    · rw [completeIfDone_markDone_seq]
      exact .inl ((sameRecord_convert _ _ _ s).trans (sameRecord_seqAfterDone _ _))

/-! ### What a step does to them -/

/-- What one step can do to `RUN` and the fault record, with the delivery that does it. -/
inductive RecordEffect (s t : State) : Prop
  /-- Neither changes. -/
  | kept (same : SameRecord s.seq t.seq)
  /-- The host writes `SEQ_START` to `G.GCMD` (44_system.md R382). -/
  | started (k : BitVec 20) (ds : List Delivery) (pending : s.pending = .write k 32 1#32 :: ds)
      (port : k.toNat = 0x00004) (record : t.seq.faultInfo = s.seq.faultInfo)
  /-- An event stops the running sequencer (40_sequencer.md R235). -/
  | faulted (e : BitVec 16) (ds : List Delivery) (pending : s.pending = .event e :: ds) (running : s.seq.run = true)
      (stopped : t.seq.run = false)
  /-- A reset (70_reset_and_hazards.md R450). -/
  | reset (ds : List Delivery) (pending : s.pending = .reset :: ds) (stopped : t.seq.run = false)

theorem RecordEffect.of_seq_eq {s t : State} (h : t.seq = s.seq) : RecordEffect s t := .kept (sameRecord_of_eq h)

/-- A word on the port of an axis runs a command of that axis, or is refused. -/
theorem runWire_cmd_seq {a : Axis} {w : W32} {s t : State} (h : runWire (.cmd a w) s = .next t) : t.seq = s.seq := by
  unfold runWire at h
  split at h
  next i hi =>
    have hax : commandAxis i = some a := by
      have hword : encode i = .cmd a w := decodeCmd_eq_ok_iff.mp hi
      cases i <;> cases hword <;> rfl
    exact exec_seq_of_commandAxis hax h
  next => cases h; rfl

/-- A word on the global port is `SEQ_START`, or leaves `SEQ` alone (30_encoding.md R187, R188). -/
theorem runWire_gcmd_seq {w : W32} {s t : State} (h : runWire (.gcmd w) s = .next t) :
    t.seq = s.seq ∨ w = 1#32 ∧ t.seq.faultInfo = s.seq.faultInfo := by
  unfold runWire at h
  split at h
  next i hi =>
    have hword : encode i = .gcmd w := decodeGcmd_eq_ok_iff.mp hi
    cases i <;> cases hword
    case gnop => cases h; exact .inl rfl
    case seqStart => cases h; exact .inr ⟨rfl, rfl⟩
  next => cases h; exact .inl rfl

theorem toNat_of_locate_gcmd {k : BitVec 20} (h : locate k = .gcmd) : k.toNat = 0x00004 := by
  rcases locate_cases k with ⟨-, hk⟩ | ⟨_, h', -⟩ | ⟨_, h'⟩ | ⟨_, _, _, h', -⟩ | ⟨h', -⟩ | h' | ⟨h', -⟩
  · exact hk
  all_goals cases h'.symm.trans h

theorem recordEffect_of_write {s t : State} {k : BitVec 20} {v : W32} {ds : List Delivery}
    (hp : s.pending = .write k 32 v :: ds) (hk : busAccepts k 32 = true) (h : step s = .next t) : RecordEffect s t := by
  rw [step_write hp hk] at h
  cases hl : locate k <;> rw [hl] at h
  case gcmd =>
    rcases runWire_gcmd_seq h with heq | ⟨rfl, hinfo⟩
    · exact .of_seq_eq heq
    · exact .started k ds hp (toNat_of_locate_gcmd hl) hinfo
  case cmd a => exact .of_seq_eq (runWire_cmd_seq (s := s.accept ds) h)
  case global r => cases h; exact .of_seq_eq (writeGlobal_seq v _ r)
  case axis a r => cases h; exact .of_seq_eq (writeAxis_seq a v _ r)
  case storage | hole | unmapped => cases h; exact .of_seq_eq rfl

/-- What one step can do to `RUN` and the fault record, by the delivery it takes. -/
theorem step_recordEffect {s t : State} (h : step s = .next t) : RecordEffect s t := by
  cases hp : s.pending with
  | nil => rw [step_idle hp] at h; cases h; exact .of_seq_eq rfl
  | cons d ds =>
    cases d with
    | write k width v =>
      cases hk : busAccepts k width with
      | true =>
        obtain rfl := ((busAccepts_iff k width).mp hk).1
        exact recordEffect_of_write hp hk h
      | false =>
        rw [step_deliver hp, deliver, busWrite, if_neg (by simp [hk])] at h
        cases h
        exact .of_seq_eq rfl
    | event e =>
      rw [step_event hp] at h
      rcases event_record (s := s.take ds) h with hsame | ⟨hrun, hstop⟩
      · exact .kept hsame
      · exact .faulted e ds hp hrun hstop
    | reset => rw [step_deliver hp] at h; cases h; exact .reset ds hp rfl
    | read k width | setEncCnt a c | setPwmCnt a c => rw [step_deliver hp] at h; cases h; exact .of_seq_eq rfl

/-- Settles O28: of the four effects of a step, one raises `RUN`, and two can change the record. -/
theorem onlySeqStartSetsRun : Obligations.OnlySeqStartSetsRun := by
  intro s t h
  cases step_recordEffect h with
  | kept same => exact ⟨fun h0 h1 => (by simp [same.run, h0] at h1), fun hne => absurd same.faultInfo hne⟩
  | started k ds hp hk hinfo => exact ⟨fun _ _ => ⟨_, ds, hp, k, rfl, hk⟩, fun hne => absurd hinfo hne⟩
  | faulted e ds hp hrun hstop =>
    exact ⟨fun h0 _ => (by simp [h0] at hrun), fun _ => .inl ⟨e, ds, hp, hrun, hstop⟩⟩
  | reset ds hp hstop => exact ⟨fun _ h1 => (by simp [hstop] at h1), fun _ => .inr ⟨ds, hp⟩⟩

end Sys2Proof.Proofs
end

section
/-!
PROOFS. O32 to O34: events while the sequencer is stopped, and the sequencing fault (40_sequencer.md R223, R225, R234,
R235).
-/

namespace Sys2Proof.Proofs
open Sys2Proof Sys2Proof.Machine

/-! ### The fault operation on both axes -/

theorem faultAxis_enabled (e : BlockError) (a b : Axis) (s : State) :
    (faultAxis e a s).enabled b = if b = a then false else s.enabled b := by
  rw [State.enabled_eq, faultAxis_eq, State.setBrk_axis, State.setCtl_axis]
  split <;> rfl

/-- After a fault of both axes no axis is armed; where one was, `BRK` is back at its zeros (42_foc.md R320,
44_system.md R384). -/
theorem fault_both_brk (e : BlockError) (s : State) :
    (fault [.ax0, .ax1] e s).brk =
      if s.enabled .ax0 || s.enabled .ax1 then { duty := fZero, reported := ⟨false, false⟩ } else s.brk := by
  have hoff : (faultAxis e .ax0 s).enabled .ax0 = false := by rw [faultAxis_enabled, if_pos rfl]
  have hkept : (faultAxis e .ax0 s).enabled .ax1 = s.enabled .ax1 := by rw [faultAxis_enabled, if_neg (by decide)]
  rw [fault_both]
  cases h1 : s.enabled .ax1 with
  | true => rw [faultAxis_brk_of_enabled (hkept.trans h1), Axis.other, if_pos hoff, Bool.or_true, if_pos rfl]
  | false =>
    rw [faultAxis_brk_of_disabled (hkept.trans h1), Bool.or_false]
    cases h0 : s.enabled .ax0 with
    | true => rw [faultAxis_brk_of_enabled h0, Axis.other, if_pos h1, if_pos rfl]
    | false => rw [faultAxis_brk_of_disabled h0, if_neg (by decide)]

/-! ### The sequencing fault (40_sequencer.md R235) -/

theorem seqFault_seq (e : BitVec 16) (reason : SeqReason) (s : State) :
    (seqFault e reason s).seq = { s.seq with faultInfo := seqFaultWord s.seq e reason, run := false } := by
  rw [seqFault_eq]; rfl

theorem seqFault_axis (e : BitVec 16) (reason : SeqReason) (s : State) (a : Axis) :
    (seqFault e reason s).axis a = { s.axis a with ctl := { (s.axis a).ctl with
      enable := false, error := (s.axis a).ctl.error ||| 1#10 } } := by
  rw [seqFault_eq]; cases a <;> rfl

theorem seqFault_brk (e : BitVec 16) (reason : SeqReason) (s : State) :
    (seqFault e reason s).brk =
      if s.enabled .ax0 || s.enabled .ax1 then { duty := fZero, reported := ⟨false, false⟩ } else s.brk := by
  rw [seqFault, fault_both_brk]; rfl

theorem seqFault_g (e : BitVec 16) (reason : SeqReason) (s : State) : (seqFault e reason s).g = s.g := by
  rw [seqFault_eq]; rfl

theorem seqFault_sameBytes (e : BitVec 16) (reason : SeqReason) (s : State) : s.SameBytes (seqFault e reason s) := by
  intro n; rw [seqFault_eq]; rfl

/-! ### The fields of the fault record (10_state.md R56) -/

theorem seqFaultWord_evt (r : SeqRegs) (e : BitVec 16) (reason : SeqReason) :
    (seqFaultWord r e reason).extractLsb' 0 16 = e := by
  simp (disch := decide) only [seqFaultWord, BitVec.extractLsb'_append_eq_of_add_le, BitVec.extractLsb'_eq_self]

theorem seqFaultWord_state (r : SeqRegs) (e : BitVec 16) (reason : SeqReason) :
    (seqFaultWord r e reason).extractLsb' 16 2 = r.state := by
  simp (disch := decide) only [seqFaultWord, BitVec.extractLsb'_append_eq_of_add_le, BitVec.extractLsb'_append_eq_left]

theorem seqFaultWord_done0 (r : SeqRegs) (e : BitVec 16) (reason : SeqReason) :
    (seqFaultWord r e reason).getLsbD 18 = r.done.unit0 := by
  simp only [seqFaultWord, BitVec.getLsbD_append]
  simp

theorem seqFaultWord_done1 (r : SeqRegs) (e : BitVec 16) (reason : SeqReason) :
    (seqFaultWord r e reason).getLsbD 19 = r.done.unit1 := by
  simp only [seqFaultWord, BitVec.getLsbD_append]
  simp

theorem seqFaultWord_reason (r : SeqRegs) (e : BitVec 16) (reason : SeqReason) :
    (seqFaultWord r e reason).extractLsb' 20 4 = reason.code := by
  simp (disch := decide) only [seqFaultWord, BitVec.extractLsb'_append_eq_of_add_le, BitVec.extractLsb'_append_eq_left]

/-- `VALID` is 1 and the reserved bits are 0. -/
theorem seqFaultWord_high (r : SeqRegs) (e : BitVec 16) (reason : SeqReason) :
    (seqFaultWord r e reason).extractLsb' 24 8 = 0x80#8 := by
  ext i hi
  simp only [seqFaultWord, BitVec.getElem_extractLsb', BitVec.getLsbD_append]
  interval_cases i <;> simp

/-! ### Which events are ignored, and which are the fault -/

theorem execAdcEocForeign_of_stopped {s : State} (h : s.seq.run = false) (chan trig : Axis) (unit : BitVec 2)
    (raw : BitVec 12) : execAdcEocForeign chan trig unit raw s = .next s := if_pos h

theorem execAdcEocForeign_of_running {s : State} (h : s.seq.run = true) (chan trig : Axis) (unit : BitVec 2)
    (raw : BitVec 12) :
    execAdcEocForeign chan trig unit raw s = .next (seqFault (evtWord chan trig unit raw) .foreign s) :=
  if_neg (by simp [h])

theorem execAdcEoc_of_stopped {s : State} (h : s.seq.run = false) (chan trig : Axis) (unit : BitVec 2)
    (raw : BitVec 12) : execAdcEoc chan trig unit raw s = .next s := if_pos h

section Running
variable {s : State} {chan trig : Axis} {unit : BitVec 2} (raw : BitVec 12) (hrun : s.seq.run = true)
include hrun

theorem execAdcEoc_wrong_trigger (htrig : trig ≠ seqAxis s.seq.state) :
    execAdcEoc chan trig unit raw s = .next (seqFault (evtWord chan trig unit raw) .trigger s) := by
  simp [execAdcEoc, hrun, htrig]

theorem execAdcEoc_wrong_channel (htrig : trig = seqAxis s.seq.state) (hchan : chan ≠ seqAxis s.seq.state) :
    execAdcEoc chan trig unit raw s = .next (seqFault (evtWord chan trig unit raw) .channel s) := by
  simp [execAdcEoc, hrun, htrig, hchan]

theorem execAdcEoc_duplicate (htrig : trig = seqAxis s.seq.state) (hchan : chan = seqAxis s.seq.state)
    (hdone : s.seq.done.get (adcUnit unit) = true) :
    execAdcEoc chan trig unit raw s = .next (seqFault (evtWord chan trig unit raw) .duplicate s) := by
  simp [execAdcEoc, hrun, htrig, hchan, hdone]

theorem execAdcEoc_expected (htrig : trig = seqAxis s.seq.state) (hchan : chan = seqAxis s.seq.state)
    (hdone : s.seq.done.get (adcUnit unit) = false) :
    execAdcEoc chan trig unit raw s =
      .next (completeIfDone (markDone (adcUnit unit) (convert (seqAxis s.seq.state) (adcUnit unit) raw s))) := by
  simp [execAdcEoc, hrun, htrig, hchan, hdone]

end Running

/-- Settles O32: each of the two meanings of an event begins with the check of `RUN`. -/
theorem stoppedSequencerIgnoresEvents : Obligations.StoppedSequencerIgnoresEvents := by
  intro s e h
  unfold decodeEvt
  split
  · exact execAdcEocForeign_of_stopped h _ _ _ _
  · exact execAdcEoc_of_stopped h _ _ _ _

/-- The first check of R224 and R225 an event fails, as the code of the record (10_state.md R56); 0 for an expected
event. -/
def reasonCode (r : SeqRegs) (e : BitVec 16) : BitVec 4 :=
  if e.getLsbD 13 then 1#4
  else if evtTrig e ≠ seqAxis r.state then 2#4
  else if evtChan e ≠ seqAxis r.state then 3#4
  else if r.done.get (adcUnit (evtUnit e)) then 4#4 else 0#4

theorem done_get_evtUnit (d : PerUnit Bool) (e : BitVec 16) :
    d.get (adcUnit (evtUnit e)) = if e.getLsbD 12 then d.unit1 else d.unit0 := by
  have h : (evtUnit e).getLsbD 0 = e.getLsbD 12 := by simp [evtUnit]
  rw [adcUnit, h]
  split <;> rfl

/-- While `RUN = 1` an event that fails a check is the sequencing fault of the first one it fails. -/
theorem exec_unexpected {s : State} {e : BitVec 16} (hrun : s.seq.run = true) (h : reasonCode s.seq e ≠ 0#4) :
    ∃ reason : SeqReason, reason.code = reasonCode s.seq e ∧ exec (decodeEvt e) s = .next (seqFault e reason s) := by
  have hword (reason : SeqReason) : .next (seqFault (evtWord (evtChan e) (evtTrig e) (evtUnit e) (evtRaw e)) reason s) =
      (.next (seqFault e reason s) : Host.Outcome State Fault Refusal) := by rw [evtWord_fields]
  unfold reasonCode at h ⊢
  unfold decodeEvt
  split_ifs at h ⊢ with hforeign htrig hchan hdone
  · exact ⟨.foreign, rfl, (execAdcEocForeign_of_running hrun _ _ _ _).trans (hword _)⟩
  · exact ⟨.trigger, rfl, (execAdcEoc_wrong_trigger _ hrun htrig).trans (hword _)⟩
  · exact ⟨.channel, rfl, (execAdcEoc_wrong_channel _ hrun (not_not.mp htrig) hchan).trans (hword _)⟩
  · exact ⟨.duplicate, rfl,
      (execAdcEoc_duplicate _ hrun (not_not.mp htrig) (not_not.mp hchan) hdone).trans (hword _)⟩
  · exact absurd rfl h

/-- Settles O33: the event is `seqFault` (`exec_unexpected`), whose parts and record are the lemmas above. -/
theorem unexpectedEventIsASequencingFault : Obligations.UnexpectedEventIsASequencingFault := by
  intro s e code hrun hcode hne
  rw [← done_get_evtUnit] at hcode
  obtain ⟨reason, hreason, hexec⟩ := exec_unexpected (e := e) hrun fun h0 => hne (hcode.trans h0)
  have hinfo : (seqFault e reason s).seq.faultInfo = seqFaultWord s.seq e reason := by rw [seqFault_seq]
  refine ⟨_, hexec, by rw [seqFault_seq], ?_, ?_, ?_, ?_, ?_, ?_, seqFault_axis e reason s, seqFault_brk e reason s,
    seqFault_g e reason s, seqFault_sameBytes e reason s, seqFault_sameInputs e reason s⟩
  all_goals rw [hinfo]
  · exact seqFaultWord_evt s.seq e reason
  · exact seqFaultWord_state s.seq e reason
  · exact seqFaultWord_done0 s.seq e reason
  · exact seqFaultWord_done1 s.seq e reason
  · exact (seqFaultWord_reason s.seq e reason).trans (hreason.trans hcode.symm)
  · exact seqFaultWord_high s.seq e reason

/-- Settles O34: every foreign event is `seqFault`, whatever its `UNIT` (log 19). -/
theorem foreignEventStopsTheSequencer : Obligations.ForeignEventStopsTheSequencer := by
  intro s chan trig unit raw hrun
  refine ⟨_, execAdcEocForeign_of_running hrun chan trig unit raw, seqFault_run _ _ s, ?_, ?_, fun a => ?_⟩
  · rw [seqFault_seq]; exact seqFaultWord_reason s.seq _ .foreign
  · rw [seqFault_seq]; exact seqFaultWord_evt s.seq _ .foreign
  · rw [seqFault_axis]; exact ⟨by simp, rfl⟩

end Sys2Proof.Proofs
end

section
/-!
PROOFS. O35 to O37: an expected event, with a valid gain and with an invalid one, and a full cycle of them
(40_sequencer.md R224 to R233, R237, R239).
-/

namespace Sys2Proof.Proofs
open Sys2Proof Sys2Proof.Machine

/-! ### A unit done, in full -/

/-- The unit is the last one of its state. -/
def completesState (u : AdcUnit) (r : SeqRegs) : Bool := (r.done.set u true).unit0 && (r.done.set u true).unit1

/-- The sampler of the state's axis after a unit is done: a complete current state publishes, unless a gain was bad
(40_sequencer.md R232). -/
def sampAfterDone (u : AdcUnit) (q : SeqRegs) (r : SampRegs) : SampRegs :=
  if completesState u q = true ∧ seqKind q.state = .cur ∧ q.bad = false then publish r else r

@[simp] theorem setSamp_own (s : State) (a : Axis) : s.setSamp a (s.axis a).samp = s := State.setAxis_own s a

@[simp] theorem setSamp_setSamp (s : State) (a : Axis) (r r' : SampRegs) :
    (s.setSamp a r).setSamp a r' = s.setSamp a r' := by
  simp only [State.setSamp, State.setAxis_axis_self, State.setAxis_setAxis]

theorem completeState_eq (s : State) :
    completeState s = (s.setSamp (seqAxis s.seq.state)
      (if seqKind s.seq.state = .cur ∧ s.seq.bad = false then publish (s.axis (seqAxis s.seq.state)).samp
        else (s.axis (seqAxis s.seq.state)).samp)).setSeq (advance s.seq) := by
  unfold completeState
  simp only
  split
  · rfl
  · rw [setSamp_own]

/-- What a unit done changes: `SEQ`, and the sampler of the state's axis. -/
theorem completeIfDone_markDone_eq (u : AdcUnit) (s : State) :
    completeIfDone (markDone u s) =
      (s.setSamp (seqAxis s.seq.state) (sampAfterDone u s.seq (s.axis (seqAxis s.seq.state)).samp)).setSeq
        (seqAfterDone u s.seq) := by
  cases hdone : completesState u s.seq with
  | true =>
    have hstate : completeIfDone (markDone u s) = completeState (markDone u s) := if_pos hdone
    have hseq : seqAfterDone u s.seq = advance (markDone u s).seq := if_pos hdone
    rw [hstate, completeState_eq, hseq, sampAfterDone]
    simp only [hdone, true_and]
    rfl
  | false =>
    have hstate : completeIfDone (markDone u s) = markDone u s := if_neg (Bool.eq_false_iff.mp hdone)
    have hseq : seqAfterDone u s.seq = (markDone u s).seq := if_neg (Bool.eq_false_iff.mp hdone)
    rw [hstate, hseq, sampAfterDone, hdone, if_neg (by simp), setSamp_own]
    rfl

/-! ### The unit an event names, by bit 0 of its `UNIT` -/

/-- The unit of a bit. -/
def unitOf (u1 : Bool) : AdcUnit := if u1 then .unit1 else .unit0

theorem adcUnit_ite (u1 : Bool) : adcUnit (if u1 then 1#2 else 0#2) = unitOf u1 := by cases u1 <;> rfl

theorem get_unitOf {α : Type} (p : PerUnit α) (u1 : Bool) : p.get (unitOf u1) = if u1 then p.unit1 else p.unit0 := by
  cases u1 <;> rfl

theorem done_get_ite (d : PerUnit Bool) (u1 : Bool) :
    d.get (adcUnit (if u1 then 1#2 else 0#2)) = if u1 then d.unit1 else d.unit0 := by rw [adcUnit_ite, get_unitOf]

theorem set_unitOf {α : Type} (p : PerUnit α) (u1 : Bool) (v : α) :
    p.set (unitOf u1) v = if u1 then { p with unit1 := v } else { p with unit0 := v } := by cases u1 <;> rfl

/-- A unit is the last one of its state when the other is done. -/
theorem completesState_unitOf (u1 : Bool) (r : SeqRegs) :
    completesState (unitOf u1) r = if u1 then r.done.unit0 else r.done.unit1 := by
  cases u1
  · exact Bool.true_and _
  · exact Bool.and_true _

theorem seqAfterDone_of_last {u : AdcUnit} {r : SeqRegs} (h : completesState u r = true) :
    seqAfterDone u r = { r with
      state := r.state + 1#2, done := ⟨false, false⟩, bad := false
      trigSel := r.trigSel.set u (seqAxis (r.state + 1#2)) } := if_pos h

theorem seqAfterDone_of_first {u : AdcUnit} {r : SeqRegs} (h : completesState u r = false) :
    seqAfterDone u r = { r with
      done := r.done.set u true, trigSel := r.trigSel.set u (seqAxis (r.state + 1#2)) } :=
  if_neg (Bool.eq_false_iff.mp h)

/-! ### The conversion (40_sequencer.md R226, R229, R230) -/

theorem seqKind_eq_cur_iff (st : BitVec 2) : seqKind st = .cur ↔ st = 0#2 ∨ st = 2#2 := by
  unfold seqKind
  split <;> simp_all

theorem sampAfterDone_eq (u : AdcUnit) (q : SeqRegs) (r : SampRegs) :
    sampAfterDone u q r =
      if completesState u q = true ∧ (q.state = 0#2 ∨ q.state = 2#2) ∧ q.bad = false then
        { r with sampleB := r.stageB, sampleC := r.stageC, ready := true, overrun := r.overrun || r.ready }
      else r := by
  simp only [sampAfterDone, seqKind_eq_cur_iff]
  rfl

/-! ### The event -/

/-- The sampler of axis `ax` after its valid conversion (40_sequencer.md R226, R229, R230). -/
def converted (ax : Axis) (u : AdcUnit) (raw : BitVec 12) (s : State) : SampRegs :=
  takeConversion s.nanDraw s.g (seqKind s.seq.state) u
    (rawToCurrent (s.nanDraw 0) raw (s.axis ax).samp.currGain) (s.axis ax).samp

theorem rawToCurrent_eq (nan : F32) (raw : BitVec 12) (gain : F32) :
    rawToCurrent nan raw gain = fmul nan (i2f ((raw.toNat : Int) - 2048)) gain := by
  have h : adcRaw raw = raw.toNat := Nat.mod_eq_of_lt raw.isLt
  rw [rawToCurrent, h]
  rfl

theorem takeConversion_unitOf (nan : Nat → F32) (g : GlobalRegs) (st : BitVec 2) (u1 : Bool) (cur : F32)
    (r : SampRegs) :
    takeConversion nan g (seqKind st) (unitOf u1) cur r =
      if st = 0#2 ∨ st = 2#2 then
        (if u1 then { r with stageC := fsub (nan 5) cur r.dcC } else { r with stageB := fsub (nan 5) cur r.dcB })
      else (if u1 then { r with dcC := dcFilter nan g.t g.dcTau r.dcC cur }
        else { r with dcB := dcFilter nan g.t g.dcTau r.dcB cur }) := by
  by_cases h : seqKind st = .cur
  · rw [h, if_pos ((seqKind_eq_cur_iff st).mp h)]
    cases u1 <;> rfl
  · have hdc : seqKind st = .dc := by cases hk : seqKind st <;> simp_all
    rw [hdc, if_neg (mt (seqKind_eq_cur_iff st).mpr h)]
    cases u1 <;> rfl

section Expected
variable {s : State} {unit : BitVec 2} (raw : BitVec 12) (hrun : s.seq.run = true)
  (hdone : s.seq.done.get (adcUnit unit) = false)
include hrun hdone

theorem exec_expected_of_valid (hgain : gainValid (s.axis (seqAxis s.seq.state)).samp.currGain = true) :
    exec (.adcEoc (seqAxis s.seq.state) (seqAxis s.seq.state) unit raw) s =
      .next ((s.setSamp (seqAxis s.seq.state)
          (sampAfterDone (adcUnit unit) s.seq (converted (seqAxis s.seq.state) (adcUnit unit) raw s))).setSeq
        (seqAfterDone (adcUnit unit) s.seq)) := by
  rw [exec, execAdcEoc_expected raw hrun rfl rfl hdone, convert_of_valid hgain, completeIfDone_markDone_eq]
  simp [converted]

/-- The result of a conversion with an invalid gain is discarded, and `BAD` keeps the state from publishing. -/
theorem exec_expected_of_invalid (hgain : gainValid (s.axis (seqAxis s.seq.state)).samp.currGain = false) :
    exec (.adcEoc (seqAxis s.seq.state) (seqAxis s.seq.state) unit raw) s =
      .next ((faultAxis .gainInvalid (seqAxis s.seq.state) s).setSeq
        (seqAfterDone (adcUnit unit) { s.seq with bad := true })) := by
  have hseq : (gainInvalid (seqAxis s.seq.state) s).seq = { s.seq with bad := true } := by
    rw [gainInvalid_eq]; rfl
  rw [exec, execAdcEoc_expected raw hrun rfl rfl hdone, convert_of_invalid hgain, completeIfDone_markDone_eq, hseq,
    sampAfterDone, if_neg (by simp), setSamp_own]
  rfl

end Expected

/-- Settles O35: the next state is `exec_expected_of_valid`, its conversion and its `SEQ` written out unit by unit. -/
theorem expectedConversionIsFilteredOrStaged : Obligations.ExpectedConversionIsFilteredOrStaged := by
  rintro s ax u1 raw hrun rfl hdone hfin hpos
  have hgain : gainValid (s.axis (seqAxis s.seq.state)).samp.currGain = true :=
    Bool.and_eq_true_iff.mpr ⟨hfin, hpos⟩
  refine ⟨_, exec_expected_of_valid raw hrun ((done_get_ite _ u1).trans hdone) hgain, ?_⟩
  rw [adcUnit_ite]
  intro r cur filtered current r1 next trig both
  have hlast : completesState (unitOf u1) s.seq = both := completesState_unitOf u1 s.seq
  have hr1 : converted (seqAxis s.seq.state) (unitOf u1) raw s = r1 := by
    rw [converted, takeConversion_unitOf, rawToCurrent_eq]
    rfl
  refine ⟨?seq, ?own, State.setSamp_axis_other s _ _, rfl, rfl, fun _ => rfl, ⟨rfl, rfl, rfl, rfl, rfl, rfl⟩⟩
  case seq =>
    rw [State.setSeq_seq]
    cases hb : both with
    | true => rw [seqAfterDone_of_last (hlast.trans hb), set_unitOf]; rfl
    | false => rw [seqAfterDone_of_first (hlast.trans hb), set_unitOf, set_unitOf]; rfl
  case own =>
    rw [State.setSeq_axis, State.setSamp_axis_self, hr1, sampAfterDone_eq, hlast]

/-! ### The gain fault -/

/-- `BRK` after the fault of one axis, said of the whole step (60_exceptions.md R405, 44_system.md R384). -/
theorem faultAxis_brk (e : BlockError) (a : Axis) (s : State) :
    (faultAxis e a s).brk = if (s.axis a).ctl.enable then brkAfterDisarm a s (faultAxis e a s) else s.brk := by
  have hen : (orError a e.mask s).enabled = s.enabled := enabled_setCtl rfl
  split
  next h =>
    rw [faultAxis, disableAxis_brk_eq_brkAfterDisarm (hen ▸ h)]
    exact brkAfterDisarm_congr (State.setCtl_axis_other s a _) rfl _
  next h => exact faultAxis_brk_of_disabled (Bool.eq_false_iff.mpr h)

theorem faultAxis_axis_self (e : BlockError) (a : Axis) (s : State) :
    (faultAxis e a s).axis a = { s.axis a with ctl := { (s.axis a).ctl with
      enable := false, error := (s.axis a).ctl.error ||| e.mask } } := by
  rw [faultAxis_eq, State.setBrk_axis, State.setCtl_axis_self]

theorem faultAxis_onlyAxis (e : BlockError) (a : Axis) (s : State) : State.OnlyAxis a s (faultAxis e a s) := by
  rw [faultAxis_eq]
  exact onlyAxis_setAxis_setBrk s a _ _

theorem faultAxis_sameBytes (e : BlockError) (a : Axis) (s : State) : s.SameBytes (faultAxis e a s) := by
  intro n; rw [faultAxis_eq]; rfl

/-- Settles O36: the next state is the fault of the axis and `SEQ` after the unit is done with `BAD` set. -/
theorem invalidGainDiscardsTheConversion : Obligations.InvalidGainDiscardsTheConversion := by
  rintro s ax u1 raw hrun rfl hdone hgain
  refine ⟨_, exec_expected_of_invalid raw hrun ((done_get_ite _ u1).trans hdone) hgain, ?_⟩
  rw [adcUnit_ite]
  have honly := faultAxis_onlyAxis .gainInvalid (seqAxis s.seq.state) s
  have hrecord := sameRecord_seqAfterDone (unitOf u1) { s.seq with bad := true }
  refine ⟨faultAxis_axis_self .gainInvalid _ s, honly.other, faultAxis_brk .gainInvalid _ s, ?seq,
    hrecord.run.trans hrun, hrecord.faultInfo, honly.g, faultAxis_sameBytes .gainInvalid _ s,
    honly.inputs.trans ⟨rfl, rfl, rfl, rfl, rfl, rfl⟩⟩
  rw [← completesState_unitOf, State.setSeq_seq]
  split
  next hlast => rw [seqAfterDone_of_last (r := { s.seq with bad := true }) hlast]; exact ⟨rfl, rfl, rfl⟩
  next hfirst =>
    rw [seqAfterDone_of_first (r := { s.seq with bad := true }) (Bool.eq_false_iff.mpr hfirst), set_unitOf]
    exact ⟨rfl, rfl, rfl⟩

/-! ### A cycle of expected events (40_sequencer.md R237, R239) -/

/-- Running, with no invalid gain seen and none to come. -/
structure Steady (s : State) : Prop where
  running : s.seq.run = true
  noBad : s.seq.bad = false
  gains : ∀ a, gainValid (s.axis a).samp.currGain = true

/-- `READY` and `OVERRUN` of an axis (10_state.md R72). -/
def flags (s : State) (a : Axis) : Bool × Bool := ((s.axis a).samp.ready, (s.axis a).samp.overrun)

/-- The two flags after a signal (40_sequencer.md R232). -/
def signalled (f : Bool × Bool) : Bool × Bool := (true, f.2 || f.1)

/-- A conversion leaves the flags and the gain alone. -/
theorem takeConversion_kept (nan : Nat → F32) (g : GlobalRegs) (kind : SeqKind) (u : AdcUnit) (cur : F32)
    (r : SampRegs) :
    (takeConversion nan g kind u cur r).ready = r.ready ∧ (takeConversion nan g kind u cur r).overrun = r.overrun ∧
      (takeConversion nan g kind u cur r).currGain = r.currGain := by
  cases kind <;> cases u <;> exact ⟨rfl, rfl, rfl⟩

theorem sampAfterDone_currGain (u : AdcUnit) (q : SeqRegs) (r : SampRegs) :
    (sampAfterDone u q r).currGain = r.currGain := by
  unfold sampAfterDone
  split <;> rfl

theorem sampAfterDone_flags (u : AdcUnit) {q : SeqRegs} (r : SampRegs) (hbad : q.bad = false) :
    ((sampAfterDone u q r).ready, (sampAfterDone u q r).overrun) =
      if completesState u q = true ∧ seqKind q.state = .cur then signalled (r.ready, r.overrun)
      else (r.ready, r.overrun) := by
  simp only [sampAfterDone, hbad, and_true]
  split <;> rfl

theorem seqAfterDone_bad (u : AdcUnit) {r : SeqRegs} (h : r.bad = false) : (seqAfterDone u r).bad = false := by
  unfold seqAfterDone
  simp only
  split
  · rfl
  · exact h

/-- One expected event of a steady sequencer: it stays steady, and the flags change only by the signal of a complete
current state. -/
theorem exec_expected_of_steady {s : State} (h : Steady s) {unit : BitVec 2} (raw : BitVec 12)
    (hdone : s.seq.done.get (adcUnit unit) = false) :
    ∃ t, exec (.adcEoc (seqAxis s.seq.state) (seqAxis s.seq.state) unit raw) s = .next t ∧ Steady t ∧
      t.seq = seqAfterDone (adcUnit unit) s.seq ∧
      ∀ a, flags t a =
        if completesState (adcUnit unit) s.seq = true ∧ seqKind s.seq.state = .cur ∧ a = seqAxis s.seq.state then
          signalled (flags s a)
        else flags s a := by
  obtain ⟨hready, hoverrun, hgain⟩ := takeConversion_kept s.nanDraw s.g (seqKind s.seq.state) (adcUnit unit)
    (rawToCurrent (s.nanDraw 0) raw (s.axis (seqAxis s.seq.state)).samp.currGain) (s.axis (seqAxis s.seq.state)).samp
  refine ⟨_, exec_expected_of_valid raw h.running hdone (h.gains _), ⟨?run, ?bad, ?gains⟩, rfl, ?flags⟩
  case run => exact (sameRecord_seqAfterDone _ _).run.trans h.running
  case bad => exact seqAfterDone_bad _ h.noBad
  case gains =>
    refine Axis.forall_of_self_other (seqAxis s.seq.state) ?_ ?_
    · rw [State.setSeq_axis, State.setSamp_axis_self, sampAfterDone_currGain, converted, hgain]
      exact h.gains _
    · rw [State.setSeq_axis, State.setSamp_axis_other]
      exact h.gains _
  case flags =>
    refine Axis.forall_of_self_other (seqAxis s.seq.state) ?_ ?_
    · rw [flags, State.setSeq_axis, State.setSamp_axis_self, sampAfterDone_flags _ _ h.noBad, converted, hready,
        hoverrun]
      simp only [and_true]
      rfl
    · rw [flags, State.setSeq_axis, State.setSamp_axis_other, if_neg (by simp)]
      rfl

/-- A state of a cycle that began in `s0`, as seen from outside: it runs, with no new overrun. -/
structure InCycle (s0 : State) (st : BitVec 2) (ready : Axis → Bool) (t : State) : Prop where
  running : t.seq.run = true
  state : t.seq.state = st
  flags : ∀ a, flags t a = (ready a, (s0.axis a).samp.overrun)

theorem InCycle.ready_eq {s0 : State} {st : BitVec 2} {ready : Axis → Bool} {t : State} (h : InCycle s0 st ready t)
    (a : Axis) : (t.axis a).samp.ready = ready a := congrArg Prod.fst (h.flags a)

theorem InCycle.overrun_eq {s0 : State} {st : BitVec 2} {ready : Axis → Bool} {t : State} (h : InCycle s0 st ready t)
    (a : Axis) : (t.axis a).samp.overrun = (s0.axis a).samp.overrun := congrArg Prod.snd (h.flags a)

/-- No event of its sequencer state is in yet. -/
structure AtStateStart (s0 : State) (st : BitVec 2) (ready : Axis → Bool) (t : State) : Prop
    extends InCycle s0 st ready t where
  steady : Steady t
  done : t.seq.done = ⟨false, false⟩

/-- The axes that have signalled after a sequencer state is complete (40_sequencer.md R232). -/
def readyAfter (st : BitVec 2) (ready : Axis → Bool) (a : Axis) : Bool :=
  if seqKind st = .cur ∧ a = seqAxis st then true else ready a

/-- The pair in the order of its events. -/
theorem expectedPair_eq (a : Axis) (o : Bool) (raw0 raw1 : BitVec 12) :
    expectedPair a o raw0 raw1 =
      [.adcEoc a a (if !o then 1#2 else 0#2) (if o then raw0 else raw1),
        .adcEoc a a (if o then 1#2 else 0#2) (if o then raw1 else raw0)] := by cases o <;> rfl

theorem statesAfter_cons {i : Instr} {s t : State} (h : exec i s = .next t) (is : List Instr) :
    statesAfter (i :: is) s = t :: statesAfter is t := by rw [statesAfter, h]

/-- The two expected events of a state, in either order and with any readings: the first changes nothing that is seen,
the second completes the state and signals where it is a current state. -/
theorem statesAfter_expectedPair {s0 s : State} {st : BitVec 2} {ready : Axis → Bool} {a : Axis}
    (h : AtStateStart s0 st ready s) (ha : seqAxis st = a) (hfree : seqKind st = .cur → ready a = false) (o : Bool)
    (raw0 raw1 : BitVec 12) :
    ∃ t u, (∀ is, statesAfter (expectedPair a o raw0 raw1 ++ is) s = t :: u :: statesAfter is u) ∧
      InCycle s0 st ready t ∧ AtStateStart s0 (st + 1#2) (readyAfter st ready) u := by
  obtain ⟨⟨hrun, rfl, hflags⟩, hsteady, hdone⟩ := h
  subst ha
  rw [expectedPair_eq]
  have hnone (u1 : Bool) : completesState (unitOf u1) s.seq = false := by
    rw [completesState_unitOf, hdone]; exact ite_self _
  obtain ⟨t, ht, htsteady, htseq, htflags⟩ := exec_expected_of_steady hsteady (unit := if !o then 1#2 else 0#2)
    (if o then raw0 else raw1) (by rw [done_get_ite, hdone]; exact ite_self _)
  simp only [adcUnit_ite, hnone, Bool.false_eq_true, false_and, if_false] at htflags
  rw [adcUnit_ite, seqAfterDone_of_first (hnone _), hdone, set_unitOf] at htseq
  have htstate : t.seq.state = s.seq.state := by rw [htseq]
  have hlast : completesState (unitOf o) t.seq = true := by rw [completesState_unitOf, htseq]; cases o <;> rfl
  obtain ⟨u, hu, husteady, huseq, huflags⟩ := exec_expected_of_steady htsteady (unit := if o then 1#2 else 0#2)
    (if o then raw1 else raw0) (by rw [done_get_ite, htseq]; cases o <;> rfl)
  simp only [adcUnit_ite, hlast, true_and, htstate, htflags] at huflags
  rw [adcUnit_ite, seqAfterDone_of_last hlast, htstate] at huseq
  rw [htstate] at hu
  refine ⟨t, u, fun is => (statesAfter_cons ht _).trans (congrArg _ (statesAfter_cons hu is)),
    ⟨htsteady.running, htstate, fun a => (htflags a).trans (hflags a)⟩,
    ⟨husteady.running, by rw [huseq], fun a => ?_⟩, husteady, by rw [huseq]⟩
  rw [huflags, readyAfter, hflags]
  split
  next hsignal => rw [signalled, hsignal.2, hfree hsignal.1, Bool.or_false]
  next => rfl

/-- Settles O37: the four states of the cycle, each by `statesAfter_expectedPair`. -/
theorem fullCycleSignalsEachAxisOnce : Obligations.FullCycleSignalsEachAxisOnce := by
  intro s o0 o1 o2 o3 raw hrun hstate hdone hbad hgain hready ts
  have h0 : AtStateStart s 0#2 (fun _ => false) s :=
    ⟨⟨hrun, hstate, fun a => congrArg (·, _) (hready a)⟩,
      ⟨hrun, hbad, fun a => Bool.and_eq_true_iff.mpr (hgain a)⟩, hdone⟩
  obtain ⟨t0, u0, hts0, ht0, hu0⟩ :=
    statesAfter_expectedPair (a := .ax0) h0 rfl (fun _ => rfl) o0 (raw 0) (raw 1)
  obtain ⟨t1, u1, hts1, ht1, hu1⟩ := statesAfter_expectedPair (a := .ax1) hu0 rfl nofun o1 (raw 2) (raw 3)
  obtain ⟨t2, u2, hts2, ht2, hu2⟩ :=
    statesAfter_expectedPair (a := .ax1) hu1 rfl (fun _ => rfl) o2 (raw 4) (raw 5)
  obtain ⟨t3, u3, hts3, ht3, hu3⟩ := statesAfter_expectedPair (a := .ax0) hu2 rfl nofun o3 (raw 6) (raw 7)
  have hlast := hts3 []
  rw [List.append_nil, statesAfter] at hlast
  have hts : ts = [t0, u0, t1, u1, t2, u2, t3, u3] := by
    simp only [ts, List.append_assoc, hts0, hts1, hts2, hlast]
  rw [hts]
  refine ⟨?ready0, ?ready1, ?state, ?running⟩
  case ready0 | ready1 =>
    simp only [List.map_cons, List.map_nil, ht0.ready_eq, hu0.ready_eq, ht1.ready_eq, hu1.ready_eq, ht2.ready_eq,
      hu2.ready_eq, ht3.ready_eq, hu3.ready_eq]
    rfl
  case state =>
    simp only [List.map_cons, List.map_nil, ht0.state, hu0.state, ht1.state, hu1.state, ht2.state, hu2.state, ht3.state,
      hu3.state]
    rfl
  case running =>
    simp only [List.forall_mem_cons]
    exact ⟨⟨ht0.running, ht0.overrun_eq⟩, ⟨hu0.running, hu0.overrun_eq⟩, ⟨ht1.running, ht1.overrun_eq⟩,
      ⟨hu1.running, hu1.overrun_eq⟩, ⟨ht2.running, ht2.overrun_eq⟩, ⟨hu2.running, hu2.overrun_eq⟩,
      ⟨ht3.running, ht3.overrun_eq⟩, ⟨hu3.running, hu3.overrun_eq⟩, List.forall_mem_nil _⟩

end Sys2Proof.Proofs
end

section
/-!
PROOFS. The numerics of the estimator: the bounds of the one rounding, the exact integers of `i2f` (00_scope.md R22),
and the range of the electrical phase (41_pll.md R266, R274).
-/

namespace Sys2Proof.Proofs
open Sys2Proof Sys2Proof.Machine

/-! ### Bounds of the one rounding (00_scope.md R17) -/

theorem roundMag_le_succ_lowerField (n d : Nat) : roundMag n d ≤ lowerField n d + 1 := by
  by_cases h : RoundsUp n d
  · rw [roundMag_of_roundsUp h]; omega
  · rw [roundMag_of_not_roundsUp h]; omega

theorem le_roundMag_of_le_lowerField {n d k : Nat} (hk : k ≤ 0x7F800000) (h : k ≤ lowerField n d) :
    k ≤ roundMag n d := by
  by_cases hup : RoundsUp n d
  · rw [roundMag_of_roundsUp hup]; omega
  · rw [roundMag_of_not_roundsUp hup]; omega

/-- What is not above a field's value does not round above the field. -/
theorem roundMag_le_of_le_magValue {n d k : Nat} (hd : 0 < d) (h : n ≤ magValue k * d) : roundMag n d ≤ k := by
  have hle : lowerField n d ≤ k :=
    magValue_strictMono.le_iff_le.mp (Nat.le_of_mul_le_mul_right ((magValue_lowerField_mul_le n d).trans h) hd)
  rcases hle.eq_or_lt with rfl | hlt
  · have hnext := Nat.mul_lt_mul_of_pos_right (magValue_strictMono (Nat.lt_add_one (lowerField n d))) hd
    have hdown : ¬RoundsUp n d := by unfold RoundsUp; omega
    exact (roundMag_of_not_roundsUp hdown).trans_le (Nat.min_le_left _ _)
  · exact (roundMag_le_succ_lowerField n d).trans hlt

/-- What is not below a field's value does not round below the field. -/
theorem le_roundMag_of_magValue_le {n d k : Nat} (hd : 0 < d) (hk : k ≤ 0x7F800000) (h : magValue k * d ≤ n) :
    k ≤ roundMag n d := by
  have hlt := Nat.lt_of_mul_lt_mul_right (h.trans_lt (lt_magValue_lowerField_succ_mul n hd))
  exact le_roundMag_of_le_lowerField hk (Nat.lt_succ_iff.mp (magValue_strictMono.lt_iff_lt.mp hlt))

/-- A value the format holds rounds to itself. -/
theorem roundMag_magValue {d k : Nat} (hd : 0 < d) (hk : k ≤ 0x7F800000) : roundMag (magValue k * d) d = k :=
  (roundMag_le_of_le_magValue hd le_rfl).antisymm (le_roundMag_of_magValue_le hd hk le_rfl)

/-- A normal result is at most one part in `2^23` above the exact value. -/
theorem magValue_roundMag_mul_le {n d : Nat} (hd : 0 < d) (h : 2 ^ 23 * d ≤ n) :
    magValue (roundMag n d) * d * 2 ^ 23 ≤ n * (2 ^ 23 + 1) := by
  have hnormal : 2 ^ 23 ≤ n / (d * 2 ^ ulpExp n d) := (significand_normal n d).elim
    (fun h0 => by rw [h0, pow_zero, Nat.mul_one]; exact (Nat.le_div_iff_mul_le hd).mpr h) id
  have hulp : 2 ^ 23 * (d * 2 ^ ulpExp n d) ≤ n :=
    (Nat.mul_le_mul_right _ hnormal).trans (Nat.div_mul_le_self n _)
  have hlow := magValue_lowerField_mul_le n d
  calc magValue (roundMag n d) * d * 2 ^ 23
      ≤ magValue (lowerField n d + 1) * d * 2 ^ 23 := by
        gcongr
        exact magValue_strictMono.monotone (roundMag_le_succ_lowerField n d)
    _ = magValue (lowerField n d) * d * 2 ^ 23 + 2 ^ 23 * (d * 2 ^ ulpExp n d) := by
        rw [magValue_lowerField, magValue_lowerField_succ]; ring
    _ ≤ n * (2 ^ 23 + 1) := by omega

/-! ### Integers of at most 24 bits are exact (00_scope.md R22) -/

/-- The field of a small integer: shifted to 24 bits, its exponent says by how much. -/
theorem exists_magValue_eq_natCast {n : Nat} (h : n < 2 ^ 24) : ∃ k < 0x7F800000, magValue k = n * 2 ^ 149 := by
  rcases Nat.eq_zero_or_pos n with rfl | hpos
  · exact ⟨0, by decide, rfl⟩
  have he : Nat.log2 n < 24 := (Nat.log2_lt hpos.ne').mpr h
  have hlow : 2 ^ 23 ≤ n * 2 ^ (23 - Nat.log2 n) := by
    calc 2 ^ 23 = 2 ^ Nat.log2 n * 2 ^ (23 - Nat.log2 n) := by rw [← pow_add]; congr 1; omega
      _ ≤ n * 2 ^ (23 - Nat.log2 n) := Nat.mul_le_mul_right _ (Nat.log2_self_le hpos.ne')
  have hhigh : n * 2 ^ (23 - Nat.log2 n) ≤ 2 ^ 24 := by
    calc n * 2 ^ (23 - Nat.log2 n) ≤ 2 ^ (Nat.log2 n + 1) * 2 ^ (23 - Nat.log2 n) :=
          Nat.mul_le_mul_right _ Nat.lt_log2_self.le
      _ = 2 ^ 24 := by rw [← pow_add]; congr 1; omega
  refine ⟨(126 + Nat.log2 n) * 0x800000 + n * 2 ^ (23 - Nat.log2 n), by omega, ?_⟩
  rw [magValue_mul_add hhigh (.inr hlow), Nat.mul_assoc, ← pow_add]
  congr 2
  omega

/-- What `i2f` of a small integer not below zero is. -/
structure ExactCount (n : Nat) (x : F32) : Prop where
  sign : fSign x = false
  finite : isFinite x = true
  units : fUnits x = n * 2 ^ 149

theorem exactCount_i2f {n : Nat} (h : n < 2 ^ 24) : ExactCount n (i2f n) := by
  obtain ⟨k, hk, hval⟩ := exists_magValue_eq_natCast h
  have hi2f : i2f n = fPack false k := by
    have hneg : ¬(n : Int) * 2 ^ 149 < 0 := by omega
    have habs : ((n : Int) * 2 ^ 149).natAbs = magValue k * 1 := by rw [hval]; omega
    rw [i2f, fOfUnits, habs, roundMag_magValue one_pos hk.le, decide_eq_false hneg]
  have hmag : fMag (i2f n) = k := by rw [hi2f, fMag_fPack (by omega)]
  exact ⟨by rw [hi2f, fSign_fPack (by omega)], decide_eq_true (hmag ▸ hk), by rw [fUnits_eq_magValue, hmag, hval]⟩

/-! ### The range of the phase (41_pll.md R266, R274) -/

theorem fMag_fTwoPi : fMag fTwoPi = 0x40C90FDB := by decide

theorem fUnits_fTwoPi : fUnits fTwoPi = 0xC90FDB * 2 ^ 128 := by
  rw [fUnits_eq_magValue, fMag_fTwoPi]; norm_num [magValue]

/-- The value below `TWO_PI_F`, which is below the real 2π already. -/
theorem magValue_belowTwoPi : magValue 0x40C90FDA = 0xC90FDA * 2 ^ 128 := by norm_num [magValue]

theorem phaseInRange_of_fMag_le {x : F32} (hs : fSign x = false) (hm : fMag x ≤ 0x40C90FDA) : PhaseInRange x where
  not_negative := hs
  below := by
    have hnan : isNaN x = false := decide_eq_false (by omega)
    have hkey : fKey x < fKey fTwoPi := by
      have h2 : fKey fTwoPi = 0x40C90FDB := by decide
      rw [h2, fKey, hs]
      simp only [Bool.false_eq_true, if_false]
      omega
    rw [flt, hnan, decide_eq_true hkey]
    decide
  below_real := by
    have hunits : fUnits x ≤ 0xC90FDA * 2 ^ 128 := by
      rw [← magValue_belowTwoPi, fUnits_eq_magValue]
      exact magValue_strictMono.monotone hm
    have hreal : (fUnits x : ℝ) ≤ 0xC90FDA * 2 ^ 128 := by exact_mod_cast hunits
    have hpi := Real.pi_gt_d20
    calc (fUnits x : ℝ) ≤ 0xC90FDA * 2 ^ 128 := hreal
      _ < 2 * Real.pi * 2 ^ 149 := by linarith

theorem phaseInRange_zero : PhaseInRange 0#32 := phaseInRange_of_fMag_le (by decide) (by decide)

/-- The radians of one count, `fdiv(TWO_PI_F, i2f(CPR))` of R266. -/
def radiansPerCount (cpr : Nat) : F32 := fPack false (roundMag (fUnits fTwoPi * 2 ^ 149) (cpr * 2 ^ 149))

theorem fdiv_fTwoPi_i2f {cpr : Nat} (h1 : 1 ≤ cpr) (h2 : cpr ≤ 65536) (nan : F32) :
    fdiv nan fTwoPi (i2f cpr) = radiansPerCount cpr := by
  obtain ⟨hsign, hfin, hunits⟩ := exactCount_i2f (n := cpr) (by omega)
  have h0 : fMag (i2f cpr) ≠ 0 := mt fUnits_eq_zero.mpr (by rw [hunits]; positivity)
  have hs : fSign fTwoPi = false := by decide
  rw [fdiv_of_isFinite (by decide) hfin h0, hsign, hs, hunits, radiansPerCount]
  rfl

theorem fSign_radiansPerCount (cpr : Nat) : fSign (radiansPerCount cpr) = false := fSign_fPack (roundMag_lt _ _)

theorem fMag_radiansPerCount (cpr : Nat) :
    fMag (radiansPerCount cpr) = roundMag (fUnits fTwoPi * 2 ^ 149) (cpr * 2 ^ 149) := fMag_fPack (roundMag_lt _ _)

theorem isFinite_radiansPerCount {cpr : Nat} (h1 : 1 ≤ cpr) : isFinite (radiansPerCount cpr) = true := by
  have hle : fMag (radiansPerCount cpr) ≤ fMag fTwoPi := by
    rw [fMag_radiansPerCount]
    exact roundMag_le_of_le_magValue (by positivity) (Nat.mul_le_mul_left _ (by omega))
  rw [fMag_fTwoPi] at hle
  exact decide_eq_true (by omega)

/-- One count is at most one part in `2^23` above `TWO_PI_F / CPR`. -/
theorem fUnits_radiansPerCount_mul_le {cpr : Nat} (h1 : 1 ≤ cpr) (h2 : cpr ≤ 65536) :
    fUnits (radiansPerCount cpr) * cpr * 2 ^ 23 ≤ fUnits fTwoPi * (2 ^ 23 + 1) := by
  have hnormal : 2 ^ 23 * (cpr * 2 ^ 149) ≤ fUnits fTwoPi * 2 ^ 149 := by rw [fUnits_fTwoPi]; omega
  have hrel := magValue_roundMag_mul_le (by positivity) hnormal
  rw [← fMag_radiansPerCount, ← fUnits_eq_magValue] at hrel
  refine Nat.le_of_mul_le_mul_right (c := 2 ^ 149) ?_ (by positivity)
  calc fUnits (radiansPerCount cpr) * cpr * 2 ^ 23 * 2 ^ 149
      = fUnits (radiansPerCount cpr) * (cpr * 2 ^ 149) * 2 ^ 23 := by ring
    _ ≤ fUnits fTwoPi * 2 ^ 149 * (2 ^ 23 + 1) := hrel
    _ = fUnits fTwoPi * (2 ^ 23 + 1) * 2 ^ 149 := by ring

/-- Fewer than `CPR` counts stay below `TWO_PI_F` by one part in `CPR`, which outweighs both roundings. -/
theorem counts_mul_radiansPerCount_le {c cpr : Nat} (h1 : 1 ≤ cpr) (h2 : cpr ≤ 65536) (hc : c < cpr) :
    c * fUnits (radiansPerCount cpr) ≤ magValue 0x40C90FDA := by
  have hmargin : (cpr - 1) * (0xC90FDB * (2 ^ 23 + 1)) ≤ 0xC90FDA * (cpr * 2 ^ 23) := by omega
  have hle := fUnits_radiansPerCount_mul_le h1 h2
  rw [fUnits_fTwoPi] at hle
  rw [magValue_belowTwoPi]
  refine Nat.le_of_mul_le_mul_right (c := cpr * 2 ^ 23) ?_ (by positivity)
  calc c * fUnits (radiansPerCount cpr) * (cpr * 2 ^ 23)
      = c * (fUnits (radiansPerCount cpr) * cpr * 2 ^ 23) := by ring
    _ ≤ (cpr - 1) * (0xC90FDB * 2 ^ 128 * (2 ^ 23 + 1)) := by gcongr; omega
    _ = (cpr - 1) * (0xC90FDB * (2 ^ 23 + 1)) * 2 ^ 128 := by ring
    _ ≤ 0xC90FDA * (cpr * 2 ^ 23) * 2 ^ 128 := Nat.mul_le_mul_right _ hmargin
    _ = 0xC90FDA * 2 ^ 128 * (cpr * 2 ^ 23) := by ring

/-- The phase of `c` counts, whatever the draws: none shows. -/
theorem fmul_i2f_radiansPerCount {c cpr : Nat} (h1 : 1 ≤ cpr) (h2 : cpr ≤ 65536) (hc : c < cpr) (n0 n1 : F32) :
    fmul n1 (i2f c) (fdiv n0 fTwoPi (i2f cpr)) =
      fPack false (roundMag (c * 2 ^ 149 * fUnits (radiansPerCount cpr)) (2 ^ 149)) := by
  obtain ⟨hsign, hfin, hunits⟩ := exactCount_i2f (n := c) (by omega)
  rw [fdiv_fTwoPi_i2f h1 h2, fmul_of_isFinite hfin (isFinite_radiansPerCount h1), hsign, fSign_radiansPerCount, hunits]
  rfl

theorem phaseInRange_counts {c cpr : Nat} (h1 : 1 ≤ cpr) (h2 : cpr ≤ 65536) (hc : c < cpr) (n0 n1 : F32) :
    PhaseInRange (fmul n1 (i2f c) (fdiv n0 fTwoPi (i2f cpr))) := by
  rw [fmul_i2f_radiansPerCount h1 h2 hc]
  refine phaseInRange_of_fMag_le (fSign_fPack (roundMag_lt _ _)) ?_
  rw [fMag_fPack (roundMag_lt _ _)]
  refine roundMag_le_of_le_magValue (by positivity) ?_
  calc c * 2 ^ 149 * fUnits (radiansPerCount cpr) = c * fUnits (radiansPerCount cpr) * 2 ^ 149 := by ring
    _ ≤ _ := Nat.mul_le_mul_right _ (counts_mul_radiansPerCount_le h1 h2 hc)

/-! ### The phase of the estimator -/

/-- `ph_counts` is one of the `CPR` counts of a revolution (41_pll.md R266). -/
theorem exists_phaseCounts_eq {r : PllRegs} (h : 1 ≤ r.cpr.toNat) (posMod : W32) :
    ∃ c < r.cpr.toNat, phaseCounts r posMod = (c : Int) := by
  have h0 : 0 ≤ phaseCounts r posMod := Int.emod_nonneg _ (by omega)
  have h1 : phaseCounts r posMod < r.cpr.toNat := Int.emod_lt_of_pos _ (by omega)
  exact ⟨(phaseCounts r posMod).toNat, by omega, by omega⟩

theorem phaseInRange_elecPhaseOf {r : PllRegs} (h1 : 1 ≤ r.cpr.toNat) (h2 : r.cpr.toNat ≤ 65536) (nan : Nat → F32)
    (posMod : W32) : PhaseInRange (elecPhaseOf nan r posMod) := by
  obtain ⟨c, hc, heq⟩ := exists_phaseCounts_eq h1 posMod
  rw [elecPhaseOf, heq]
  exact phaseInRange_counts h1 h2 hc _ _

/-- At a legal `CPR` no draw shows in the phase. -/
theorem elecPhaseOf_draw {r : PllRegs} (h1 : 1 ≤ r.cpr.toNat) (h2 : r.cpr.toNat ≤ 65536) (nan nan' : Nat → F32)
    (posMod : W32) : elecPhaseOf nan r posMod = elecPhaseOf nan' r posMod := by
  obtain ⟨c, hc, heq⟩ := exists_phaseCounts_eq h1 posMod
  rw [elecPhaseOf, elecPhaseOf, heq, fmul_i2f_radiansPerCount h1 h2 hc, fmul_i2f_radiansPerCount h1 h2 hc]

end Sys2Proof.Proofs
end

section
/-!
PROOFS. O20: the electrical phase stays in range (41_pll.md R274). Only `PLL_INIT` and `PLL_UPDATE` write it.
-/

namespace Sys2Proof.Proofs
open Sys2Proof Sys2Proof.Machine

/-! ### What leaves the phase alone -/

/-- The phase of each axis is as before. -/
def SamePhase (s t : State) : Prop := ∀ a, (t.axis a).pll.elecPhase = (s.axis a).pll.elecPhase

theorem SamePhase.refl (s : State) : SamePhase s s := fun _ => rfl

theorem SamePhase.trans {s t u : State} (h : SamePhase s t) (h' : SamePhase t u) : SamePhase s u :=
  fun a => (h' a).trans (h a)

/-- New registers of an axis with the same phase. -/
theorem samePhase_setAxis {s : State} {a : Axis} {q : AxisRegs} (h : q.pll.elecPhase = (s.axis a).pll.elecPhase) :
    SamePhase s (s.setAxis a q) := fun b => by
  rw [State.setAxis_axis]
  split
  next hb => rw [h, hb]
  next => rfl

theorem samePhase_setCtl (s : State) (a : Axis) (c : CtlRegs) : SamePhase s (s.setCtl a c) :=
  samePhase_setAxis (by rfl)

theorem samePhase_disableAxis (a : Axis) (s : State) : SamePhase s (disableAxis a s) := by
  rw [disableAxis_eq]
  exact samePhase_setCtl s a _

theorem samePhase_writeCtrl (a : Axis) (v : W32) (s : State) : SamePhase s (writeCtrl a v s) := by
  unfold writeCtrl
  simp only
  split_ifs
  · exact (samePhase_setCtl s a _).trans (samePhase_setCtl _ a _)
  · exact samePhase_setCtl s a _
  · exact (samePhase_setCtl s a _).trans (samePhase_disableAxis a _)

theorem samePhase_writeErrorSet (a : Axis) (v : W32) (s : State) : SamePhase s (writeErrorSet a v s) := by
  unfold writeErrorSet
  split
  · exact samePhase_setCtl s a _
  · exact (samePhase_setCtl s a _).trans (samePhase_disableAxis a _)

theorem samePhase_writeCpr (a : Axis) (v : W32) (s : State) : SamePhase s (writeCpr a v s) := by
  unfold writeCpr
  simp only
  split
  · exact samePhase_setAxis (by rfl)
  · exact .refl s

theorem samePhase_writePolePairs (a : Axis) (v : W32) (s : State) : SamePhase s (writePolePairs a v s) := by
  unfold writePolePairs
  split
  · exact samePhase_setAxis (by rfl)
  · exact .refl s

/-- No host write to a register changes a phase (10_state.md R84). -/
theorem samePhase_writeAxis (a : Axis) (v : W32) (s : State) (r : AxReg) : SamePhase s (writeAxis a v s r) := by
  cases r
  case ctrl => exact samePhase_writeCtrl a v s
  case errorSet => exact samePhase_writeErrorSet a v s
  case cpr => exact samePhase_writeCpr a v s
  case polePairs => exact samePhase_writePolePairs a v s
  case cmdStatus | sampleB | sampleC | encPrev | encPos | encPosMod | elecPhase | idMeas | iqMeas | modD | modQ | ibus
    | pwmCmpA | pwmCmpB | pwmCmpC | tlast | tlogIdx | acogFf | tlog => exact .refl s
  all_goals exact samePhase_setAxis (by rfl)

/-! ### The phase along a step -/

/-- The phase of each axis is in range, in a state of the invariant (which holds `CPR` legal). -/
structure PhaseOk (s : State) : Prop where
  inv : s.Inv
  phase : ∀ a, PhaseInRange (s.axis a).pll.elecPhase

/-- A new phase of one axis, in range. -/
theorem phaseInRange_setPll {s : State} {a : Axis} {r : PllRegs} (h : PhaseOk s) (hr : PhaseInRange r.elecPhase)
    (b : Axis) : PhaseInRange ((s.setPll a r).axis b).pll.elecPhase := by
  rw [State.setPll_axis]
  split
  · exact hr
  · exact h.phase b

theorem PhaseOk.of_samePhase {s t : State} (h : PhaseOk s) (hst : SamePhase s t) (a : Axis) :
    PhaseInRange (t.axis a).pll.elecPhase := (hst a).symm ▸ h.phase a

theorem Update.keeps_phaseInRange {s t : State} (hu : Update s t) (h : PhaseOk s) :
    ∀ a, PhaseInRange (t.axis a).pll.elecPhase := by
  cases hu with
  | pllInit a nan cnt | pllUpdate a nan _ cnt =>
    exact phaseInRange_setPll h (phaseInRange_elecPhaseOf (h.inv.axes a).cpr_pos (h.inv.axes a).cpr_le nan _)
  | pllGains | samp | foc | pwm | acog | status => exact h.of_samePhase (samePhase_setAxis (by rfl))
  | seqDone u =>
    obtain ⟨a, r, ht⟩ := completeIfDone_markDone u s
    rw [ht]
    exact h.of_samePhase (samePhase_setAxis (q := { s.axis a with samp := r }) rfl)
  | fault e a =>
    exact h.of_samePhase ((samePhase_setCtl s a _).trans (samePhase_disableAxis a _))
  | report a ha => rw [brkReport_eq]; exact h.phase
  | gStatus | harmonics | map | seqStart | seqRecord | seqBad => exact h.phase

theorem Update.keeps_phaseOk {s t : State} (hu : Update s t) (h : PhaseOk s) : PhaseOk t :=
  ⟨hu.keeps_inv h.inv, hu.keeps_phaseInRange h⟩

theorem step_keeps_phaseInRange {s t : State} (hs : PhaseOk s) (h : step s = .next t) :
    ∀ a, PhaseInRange (t.axis a).pll.elecPhase := by
  cases step_cases h with
  | updates u hu run =>
    have hok : PhaseOk u := ⟨inv_of_sameBlock hu hs.inv, fun a => hu.axis ▸ hs.phase a⟩
    exact (run.keeps Update.keeps_phaseOk hok).phase
  | global k v ds r hp hl ht =>
    obtain ⟨g, hg, -⟩ := writeGlobal_eq v (s.accept ds) r
    rw [ht, hg]
    exact hs.phase
  | axis k v ds a r hp hl ht => exact hs.of_samePhase (ht ▸ samePhase_writeAxis a v (s.accept ds) r)
  | storage k v ds n hp hl h4 ht => exact ht ▸ hs.phase
  | reset ds hp ht => exact fun a => by rw [ht]; cases a <;> exact phaseInRange_zero

/-! ### The phase after a command -/

theorem exec_pllInit (a : Axis) (s : State) : exec (.pllInit a) s =
    .next ((s.setPll a (pllInitRegs s.nanDraw (s.encCnt.get a) (s.axis a).pll)).setStatus a .ok) := rfl

theorem exec_pllUpdate (a : Axis) (s : State) : exec (.pllUpdate a) s =
    .next ((s.setPll a (pllUpdateRegs s.nanDraw s.g.t (s.encCnt.get a) (s.axis a).pll)).setStatus a .ok) := rfl

/-- The estimator's registers after one of its commands. -/
theorem pll_setPll_setStatus (s : State) (a : Axis) (r : PllRegs) (c : Status) :
    (((s.setPll a r).setStatus a c).axis a).pll = r := by
  rw [State.setStatus_axis_self, State.setPll_axis_self]

/-- Settles O20: a phase is fewer than `CPR` counts of `TWO_PI_F / CPR` radians, which `phaseInRange_counts` bounds;
nothing but the two commands writes it. -/
theorem electricalPhaseStaysBelowTwoPi : Obligations.ElectricalPhaseStaysBelowTwoPi := by
  refine ⟨fun a => ?reset, fun s t a h1 h2 h => ?command, fun s t hinv hph h => ?step,
    fun s t a b k v ds hp hk h => ?write⟩
  case reset => cases a <;> exact phaseInRange_zero
  case command =>
    rcases h with h | h
    · cases (exec_pllInit a s).symm.trans h
      rw [pll_setPll_setStatus]
      exact phaseInRange_elecPhaseOf h1 h2 _ _
    · cases (exec_pllUpdate a s).symm.trans h
      rw [pll_setPll_setStatus]
      exact phaseInRange_elecPhaseOf h1 h2 _ _
  case step => exact step_keeps_phaseInRange ⟨hinv, hph⟩ h
  case write =>
    cases (step_writeAxis (r := .elecPhase) hp hk rfl).symm.trans h
    exact samePhase_writeAxis a v (s.accept ds) .elecPhase b

end Sys2Proof.Proofs
end

section
/-!
PROOFS. O38 to O42: the commands of the estimator (41_pll.md R270 to R273).
-/

namespace Sys2Proof.Proofs
open Sys2Proof Sys2Proof.Machine

/-! ### The registers the commands write -/

/-- New estimator registers and a status, as one update of the axis. -/
theorem setPll_setStatus (s : State) (a : Axis) (r : PllRegs) (c : Status) :
    (s.setPll a r).setStatus a c =
      s.setAxis a { s.axis a with ctl := { (s.axis a).ctl with cmdStatus := c }, pll := r } := by
  cases a <;> rfl

/-- A command of the estimator that completes changes its axis's registers and nothing else. -/
theorem completes_of_setPll {s : State} {a : Axis} {r : PllRegs} {o : Host.Outcome State Fault Refusal}
    (h : o = .next ((s.setPll a r).setStatus a .ok)) :
    ∃ t, o = .next t ∧ State.OnlyAxis a s t ∧ t.brk = s.brk ∧ s.SameBytes t ∧
      t.axis a = { s.axis a with ctl := { (s.axis a).ctl with cmdStatus := .ok }, pll := r } := by
  rw [setPll_setStatus] at h
  exact ⟨_, h, onlyAxis_setAxis s a _, rfl, fun _ => rfl, State.setAxis_axis_self s a _⟩

/-- A counter value is not negative as a position (41_pll.md R270). -/
theorem toInt_setWidth_counter (cnt : BitVec 16) : (cnt.setWidth 32).toInt = (cnt.toNat : Int) := by
  have hlt := cnt.isLt
  rw [BitVec.toInt_eq_toNat_of_lt (by rw [BitVec.toNat_setWidth]; omega), BitVec.toNat_setWidth]
  omega

/-- `ENC_POS_MOD` of a counter value (41_pll.md R270), the counter itself where `CPR = 0`. -/
theorem encPosMod_counter (cnt : BitVec 16) (cpr : W32) :
    encPosMod (cnt.setWidth 32) cpr = BitVec.ofNat 32 (cnt.toNat % cpr.toNat) := by
  rw [encPosMod, emod, toInt_setWidth_counter]
  exact BitVec.ofInt_natCast _ _

theorem toNat_encPosMod_counter (cnt : BitVec 16) (cpr : W32) :
    (encPosMod (cnt.setWidth 32) cpr).toNat = cnt.toNat % cpr.toNat := by
  have hle := Nat.mod_le cnt.toNat cpr.toNat
  have hlt := cnt.isLt
  rw [encPosMod_counter, BitVec.toNat_ofNat, Nat.mod_eq_of_lt (by omega)]

theorem setWidth_counter (cnt : BitVec 16) : cnt.setWidth 32 = BitVec.ofNat 32 cnt.toNat :=
  BitVec.eq_of_toNat_eq (by rw [BitVec.toNat_setWidth, BitVec.toNat_ofNat])

/-- The phase counts of `PLL_INIT` (41_pll.md R266, R270). -/
theorem phaseCounts_counter (r : PllRegs) (cnt : BitVec 16) :
    phaseCounts r (encPosMod (cnt.setWidth 32) r.cpr) =
      ((r.polePairs.toNat : Int) * ((cnt.toNat : Int) % r.cpr.toNat - r.encOffset.toInt)) % r.cpr.toNat := by
  rw [phaseCounts, toNat_encPosMod_counter, emod, Int.natCast_mod]

/-- Settles O38: `PLL_INIT` with its operands written out; at a legal `CPR` no draw shows (`elecPhaseOf_draw`). -/
theorem pllInitTakesTheCounterAsOrigin : Obligations.PllInitTakesTheCounterAsOrigin := by
  intro s a
  obtain ⟨t, ht, honly, hbrk, hbytes, hax⟩ := completes_of_setPll (exec_pllInit a s)
  refine ⟨t, ht, honly, hbrk, hbytes, ?_⟩
  simp only
  rw [← phaseCounts_counter, ← encPosMod_counter, ← setWidth_counter]
  refine ⟨hax, fun h1 h2 n0 n1 => ?_⟩
  rw [hax]
  exact elecPhaseOf_draw h1 h2 s.nanDraw (fun i => if i = 0 then n0 else n1) _

/-- Settles O39: `PLL_UPDATE` with its operands written out. -/
theorem pllUpdateFollowsTheLoopEquations : Obligations.PllUpdateFollowsTheLoopEquations :=
  fun s a => completes_of_setPll (exec_pllUpdate a s)

/-! ### The unwrapped position (41_pll.md R273) -/

/-- A motion that fits in 16 signed bits is the difference of the two counts (41_pll.md R264). -/
theorem encDelta_add_ofInt (c : BitVec 16) {d : Int} (h0 : -32768 ≤ d) (h1 : d ≤ 32767) :
    encDelta (c + BitVec.ofInt 16 d) c = d := by
  rw [encDelta, add_sub_cancel_left]
  exact BitVec.toInt_ofInt_eq_self (by decide) h0 (by omega)

/-- Without a wrap at `2^31` the advance is the sum (41_pll.md R265). -/
theorem toInt_encAdvance {pos : W32} {d : Int} (h0 : -2147483648 ≤ pos.toInt + d) (h1 : pos.toInt + d < 2147483648) :
    (encAdvance pos d).toInt = pos.toInt + d := by
  rw [encAdvance, BitVec.toInt_add, BitVec.toInt_ofInt, Int.add_bmod_bmod]
  exact Int.bmod_eq_of_le (by omega) (by omega)

theorem pllInitRegs_encPrev (nan : Nat → F32) (cnt : BitVec 16) (r : PllRegs) :
    (pllInitRegs nan cnt r).encPrev = cnt := rfl

theorem pllInitRegs_encPos (nan : Nat → F32) (cnt : BitVec 16) (r : PllRegs) :
    (pllInitRegs nan cnt r).encPos = cnt.setWidth 32 := rfl

theorem pllUpdateRegs_encPrev (nan : Nat → F32) (t : F32) (cnt : BitVec 16) (r : PllRegs) :
    (pllUpdateRegs nan t cnt r).encPrev = cnt := rfl

theorem pllUpdateRegs_encPos (nan : Nat → F32) (t : F32) (cnt : BitVec 16) (r : PllRegs) :
    (pllUpdateRegs nan t cnt r).encPos = encAdvance r.encPos (encDelta cnt r.encPrev) := rfl

/-- The port `enc_cnt[a]` is not a register. -/
theorem axis_setEncCnt (s : State) (e : PerAxis (BitVec 16)) (a : Axis) :
    ({ s with encCnt := e } : State).axis a = s.axis a := rfl

/-- The estimator of axis `a` read the counter value `c` last and stands at position `p`. -/
structure AtPosition (a : Axis) (c : BitVec 16) (p : Int) (s : State) : Prop where
  prev : (s.axis a).pll.encPrev = c
  pos : (s.axis a).pll.encPos.toInt = p

/-- One `PLL_UPDATE` after the motion `d`. -/
theorem atPosition_pllUpdate {a : Axis} {c : BitVec 16} {p d : Int} {s : State} (hs : AtPosition a c p s)
    (hd0 : -32768 ≤ d) (hd1 : d ≤ 32767) (hp0 : -2147483648 ≤ p + d) (hp1 : p + d < 2147483648) :
    ∃ t, exec (.pllUpdate a) { s with encCnt := s.encCnt.set a (c + BitVec.ofInt 16 d) } = .next t ∧
      AtPosition a (c + BitVec.ofInt 16 d) (p + d) t := by
  obtain ⟨hprev, rfl⟩ := hs
  refine ⟨_, exec_pllUpdate a _, ?_, ?_⟩ <;> rw [pll_setPll_setStatus]
  · rw [pllUpdateRegs_encPrev, PerAxis.get_set_self]
  · rw [pllUpdateRegs_encPos, PerAxis.get_set_self, axis_setEncCnt, hprev, encDelta_add_ofInt c hd0 hd1,
      toInt_encAdvance hp0 hp1]

/-- The motions add up, one `PLL_UPDATE` after each. -/
theorem afterUpdates_countsOf {a : Axis} {c : BitVec 16} {p : Int} {s : State} {ds : List Int}
    (hs : AtPosition a c p s) (hd : ∀ d ∈ ds, -32768 ≤ d ∧ d ≤ 32767)
    (hp : ∀ k, k ≤ ds.length → -2147483648 ≤ p + (ds.take k).sum ∧ p + (ds.take k).sum < 2147483648) :
    ∃ u, afterUpdates a (countsOf c ds) s = .next u ∧ (u.axis a).pll.encPos.toInt = p + ds.sum := by
  induction ds generalizing c p s with
  | nil => exact ⟨s, rfl, by rw [List.sum_nil, add_zero, hs.pos]⟩
  | cons d ds ih =>
    obtain ⟨hd0, hd1⟩ := hd d List.mem_cons_self
    have hfirst := hp 1 (by simp)
    simp only [List.take_succ_cons, List.take_zero, List.sum_cons, List.sum_nil, add_zero] at hfirst
    obtain ⟨t, ht, hat⟩ := atPosition_pllUpdate hs hd0 hd1 hfirst.1 hfirst.2
    obtain ⟨u, hu, hpos⟩ := ih hat (fun e he => hd e (List.mem_cons_of_mem d he)) fun k hk => by
      have hnext := hp (k + 1) (by simpa using hk)
      rwa [List.take_succ_cons, List.sum_cons, ← add_assoc] at hnext
    refine ⟨u, ?_, by rw [hpos, List.sum_cons, add_assoc]⟩
    rw [countsOf, afterUpdates, ht]
    exact hu

theorem atPosition_pllInit (a : Axis) (c : BitVec 16) (s : State) :
    ∃ t, exec (.pllInit a) { s with encCnt := s.encCnt.set a c } = .next t ∧ AtPosition a c c.toNat t := by
  refine ⟨_, exec_pllInit a _, ?_, ?_⟩ <;> rw [pll_setPll_setStatus]
  · rw [pllInitRegs_encPrev, PerAxis.get_set_self]
  · rw [pllInitRegs_encPos, PerAxis.get_set_self, toInt_setWidth_counter]

/-- Settles O40, by induction on the motions. -/
theorem unwrappedPositionIsExact : Obligations.UnwrappedPositionIsExact := by
  intro s a c ds hd hp
  obtain ⟨t, ht, hat⟩ := atPosition_pllInit a c s
  obtain ⟨u, hu, hpos⟩ := afterUpdates_countsOf hat hd hp
  exact ⟨t, u, ht, hu, hpos⟩

/-! ### The gains (41_pll.md R269, R272) -/

/-- Of finite operands a product is the same for every draw. -/
theorem fmul_draw_of_isFinite {x y : F32} (hx : isFinite x = true) (hy : isFinite y = true) (n n' : F32) :
    fmul n x y = fmul n' x y := by
  rw [fmul_of_isFinite hx hy, fmul_of_isFinite hx hy]

/-- `PLL_SET_BW` answers `E_ARG`: the bandwidth is not finite and positive, or its gains overflow. `n0` and `n1` are the
draws of the gains' products. -/
def BandwidthRefused (n0 n1 b : F32) : Prop :=
  isFinite b = false ∨ flt fZero b = false ∨ isFinite (fmul n0 fTwo b) = false ∨ isFinite (fmul n1 b b) = false

theorem BandwidthRefused.draw {n0 n1 b : F32} (h : BandwidthRefused n0 n1 b) (m0 m1 : F32) :
    BandwidthRefused m0 m1 b := by
  cases hb : isFinite b with
  | false => exact .inl hb
  | true => rwa [BandwidthRefused, fmul_draw_of_isFinite isFinite_fTwo hb m0 n0, fmul_draw_of_isFinite hb hb m1 n1]

theorem exec_pllSetBw_of_refused {a : Axis} {s : State} {n0 n1 : F32}
    (h : BandwidthRefused n0 n1 (s.axis a).pll.bw) : exec (.pllSetBw a) s = .next (s.setStatus a .eArg) := by
  rcases h.draw (s.nanDraw 0) (s.nanDraw 1) with h | h | h | h <;> simp [exec, execPllSetBw, fgt, h]

/-- With a bandwidth that is not refused, the stability of the gains decides (41_pll.md R269, R272). -/
theorem exec_pllSetBw_of_not_refused {a : Axis} {s : State} {n0 n1 n2 : F32} (hn2 : isNaN n2 = true)
    (h : ¬BandwidthRefused n0 n1 (s.axis a).pll.bw) :
    exec (.pllSetBw a) s =
      if pllStable n2 s.g.t (fmul n0 fTwo (s.axis a).pll.bw) = false then .next (s.setStatus a .eUnstable)
      else .next ((s.setPll a { (s.axis a).pll with
        kp := fmul n0 fTwo (s.axis a).pll.bw
        ki := fmul n1 (s.axis a).pll.bw (s.axis a).pll.bw }).setStatus a .ok) := by
  simp only [BandwidthRefused, not_or, Bool.not_eq_false] at h
  obtain ⟨hb, hpos, hkp, hki⟩ := h
  simp only [exec, execPllSetBw, fgt, fmul_draw_of_isFinite isFinite_fTwo hb (s.nanDraw 0) n0,
    fmul_draw_of_isFinite hb hb (s.nanDraw 1) n1, pllStable_draw (isNaN_nanDraw s 2) hn2, hb, hpos, hkp, hki,
    Bool.and_self, Bool.not_true, Bool.false_eq_true, if_false, Bool.not_eq_true']

/-- Settles O41: the branches of R272 in order, with the gains and the check of every draw. -/
theorem pllSetBwStoresOrRefusesTheGains : Obligations.PllSetBwStoresOrRefusesTheGains := by
  intro s a n0 n1 n2 _ _ hn2 b kp ki
  by_cases hrefused : BandwidthRefused n0 n1 b
  · exact ⟨_, exec_pllSetBw_of_refused hrefused, Eq.mpr (if_pos hrefused) (onlyStatus_setStatus s a .eArg)⟩
  have hexec := exec_pllSetBw_of_not_refused hn2 hrefused
  by_cases hunstable : pllStable n2 s.g.t kp = false
  · exact ⟨_, hexec.trans (if_pos hunstable),
      Eq.mpr (if_neg hrefused) (Eq.mpr (if_pos hunstable) (onlyStatus_setStatus s a .eUnstable))⟩
  · obtain ⟨t, ht, hstored⟩ := completes_of_setPll (hexec.trans (if_neg hunstable))
    exact ⟨t, ht, Eq.mpr (if_neg hrefused) (Eq.mpr (if_neg hunstable) hstored)⟩

/-- A flag at a bit of a register shows at that bit only. -/
theorem getLsbD_bitAt (b : Bool) {k : Nat} (hk : k < 32) (i : Nat) : (bitAt b k).getLsbD i = (b && decide (i = k)) := by
  cases b with
  | false => exact BitVec.getLsbD_zero
  | true =>
    rw [bitAt, if_pos rfl, BitVec.getLsbD_ofNat, Nat.testBit_two_pow, Bool.true_and, ← Bool.decide_and]
    exact decide_eq_decide.mpr (by omega)

/-- Bit 3 of `STATUS` is `PLL_UNSTABLE` (10_state.md R72). -/
theorem readAxis_status_bit3 (s : State) (a : Axis) : (readAxis s a .status).getLsbD 3 = pllUnstable s a := by
  simp (disch := decide) only [readAxis, BitVec.getLsbD_or, getLsbD_bitAt]
  simp

theorem cmdStatus_setStatus (s : State) (a : Axis) (c : Status) : ((s.setStatus a c).axis a).ctl.cmdStatus = c := by
  rw [State.setStatus_axis_self]

/-- Settles O42: only gains that pass the check of `PLL_UNSTABLE` are answered `OK`. -/
theorem acceptedGainsReadAsStable : Obligations.AcceptedGainsReadAsStable := by
  intro s t a h hok
  have hnan := isNaN_nanDraw s 2
  by_cases hrefused : BandwidthRefused (s.nanDraw 0) (s.nanDraw 1) (s.axis a).pll.bw
  · cases (exec_pllSetBw_of_refused hrefused).symm.trans h
    cases (cmdStatus_setStatus s a .eArg).symm.trans hok
  have hexec := exec_pllSetBw_of_not_refused hnan hrefused
  by_cases hunstable : pllStable (s.nanDraw 2) s.g.t (fmul (s.nanDraw 0) fTwo (s.axis a).pll.bw) = false
  · cases (hexec.trans (if_pos hunstable)).symm.trans h
    cases (cmdStatus_setStatus s a .eUnstable).symm.trans hok
  · cases (hexec.trans (if_neg hunstable)).symm.trans h
    rw [readAxis_status_bit3, pllUnstable_eq _ a _ hnan, pll_setPll_setStatus]
    simpa using hunstable

end Sys2Proof.Proofs
end

section
/-!
PROOFS. O43 to O46: what `FOC_STEP` and `VOLT_STEP` compute, when they are refused, their commit with the report to
`BRK`, and the missed deadline (42_foc.md R291 to R312, R320).
-/

namespace Sys2Proof.Proofs
open Sys2Proof Sys2Proof.Machine

/-! ### When a step is refused (42_foc.md R291) -/

theorem exec_of_focRefusal {a : Axis} {i : Instr} {c : Status} {s : State} (hi : i = .focStep a ∨ i = .voltStep a)
    (h : focRefusal a s = some c) : exec i s = .next (s.setStatus a c) := by
  rcases hi with rfl | rfl
  · simp only [exec, execFocStep, h]
  · simp only [exec, execVoltStep, h]

theorem focRefusal_of_disabled {a : Axis} {s : State} (h : (s.axis a).ctl.enable = false) :
    focRefusal a s = some .eDisabled := if_pos h

theorem focRefusal_of_bad_vbus {a : Axis} {s : State} (h : (s.axis a).ctl.enable = true)
    (hv : (isFinite s.g.vbus && flt fZero s.g.vbus) = false) : focRefusal a s = some .eArg := by
  simp [focRefusal, fgt, State.enabled_eq, h, hv]

/-- A refused step writes its status and nothing else. -/
theorem onlyStatus_of_focRefusal {a : Axis} {i : Instr} {c : Status} {s : State}
    (hi : i = .focStep a ∨ i = .voltStep a) (h : focRefusal a s = some c) :
    ∃ t, exec i s = .next t ∧ State.OnlyStatus a c s t :=
  ⟨_, exec_of_focRefusal hi h, onlyStatus_setStatus s a c⟩

/-- Settles O43: `focRefusal` is the first check of both commands, in the order of R291. -/
theorem focPreconditionsRefuseTheStep : Obligations.FocPreconditionsRefuseTheStep := fun _ _ _ hi =>
  ⟨fun h => onlyStatus_of_focRefusal hi (focRefusal_of_disabled h),
    fun h hv => onlyStatus_of_focRefusal hi (focRefusal_of_bad_vbus h hv)⟩

/-! ### A step that is not refused -/

/-- The registers of the current controller after the commit of a `FOC_STEP` (42_foc.md R300). -/
def committedFoc (v : FocValues) (f : FocRegs) : FocRegs :=
  { f with
    vIntD := v.vid, vIntQ := v.viq, modSat := v.sat, idMeas := v.id, iqMeas := v.iq, modD := v.md, modQ := v.mq,
    ibus := v.ibus }

/-- What a step computes from the state before it: the command, its duty fractions, and the registers of the current
controller after its commit (42_foc.md R300, R301). -/
inductive Computes (s : State) (a : Axis) : Instr → Duties → FocRegs → Prop
  | foc : Computes s a (.focStep a) (focCompute s.nanDraw s.g (s.axis a)).duties
      (committedFoc (focCompute s.nanDraw s.g (s.axis a)) (s.axis a).foc)
  | volt : Computes s a (.voltStep a) (voltDuties s.nanDraw s.g (s.axis a).foc)
      { (s.axis a).foc with ibus := fZero }

section Accepted
variable {s : State} {a : Axis} {i : Instr} {d : Duties} {foc : FocRegs}

theorem exec_of_anyNaN (hi : Computes s a i d foc) (h : focRefusal a s = none) (hd : d.anyNaN = true) :
    exec i s = .next (modulationFault a s) := by
  cases hi with
  | foc => simp only [exec, execFocStep, h, hd, if_true]
  | volt => simp only [exec, execVoltStep, h, hd, if_true]

theorem exec_of_not_anyNaN (hi : Computes s a i d foc) (h : focRefusal a s = none) (hd : d.anyNaN = false) :
    exec i s = .next (finishStep a d (s.setFoc a foc)) := by
  cases hi with
  | foc => simp only [exec, execFocStep, h, hd, Bool.false_eq_true, if_false]; rfl
  | volt => simp only [exec, execVoltStep, h, hd, Bool.false_eq_true, if_false]; rfl

theorem anyNaN_eq_false (hA : isNaN d.tA = false) (hB : isNaN d.tB = false) (hC : isNaN d.tC = false) :
    d.anyNaN = false := by simp [Duties.anyNaN, hA, hB, hC]

theorem anyNaN_iff : d.anyNaN = true ↔ isNaN d.tA = true ∨ isNaN d.tB = true ∨ isNaN d.tC = true := by
  simp only [Duties.anyNaN, Bool.or_eq_true, or_assoc]

end Accepted

/-! ### The commit (42_foc.md R310, R311) -/

/-- The timings and the log entry of a committed step. -/
def committedPwm (s : State) (a : Axis) (d : Duties) : PwmRegs :=
  { (s.axis a).pwm with
    cmpA := compareCount (s.nanDraw 60) d.tA (s.axis a).pwm.period
    cmpB := compareCount (s.nanDraw 61) d.tB (s.axis a).pwm.period
    cmpC := compareCount (s.nanDraw 62) d.tC (s.axis a).pwm.period
    tlog := (s.axis a).pwm.tlog.set (s.axis a).pwm.tlogIdx.toNat (s.pwmCnt.get a) (s.axis a).pwm.tlogIdx.isLt
    tlogIdx := (s.axis a).pwm.tlogIdx + 1#4
    tlast := s.pwmCnt.get a }

/-- The registers of an axis after a commit. -/
def committedAxis (s : State) (a : Axis) (d : Duties) (foc : FocRegs) : AxisRegs :=
  { s.axis a with foc := foc, pwm := committedPwm s a d }

/-- The commit of a step, its timings and its log entry, as one update of the axis. -/
theorem logCount_commitTimings_setFoc (s : State) (a : Axis) (d : Duties) (foc : FocRegs) :
    logCount a (commitTimings a d (s.setFoc a foc)) = s.setAxis a (committedAxis s a d foc) := by
  rw [logCount_commitTimings, tlogIdx_next, tlog_setIfInBounds, State.setPwm, State.setFoc_axis_self, State.setFoc,
    State.setAxis_setAxis]
  rfl

theorem deadlineMissed_setFoc (s : State) (a : Axis) (foc : FocRegs) :
    deadlineMissed a (s.setFoc a foc) = decide ((s.axis a).pwm.deadline.toNat ≤ (s.pwmCnt.get a).toNat) := by
  rw [deadlineMissed, State.setFoc_axis_self, State.samplePwm, State.setFoc_pwmCnt]
  rfl

/-- The new registers of an axis, `BRK` aside. -/
theorem axis_of_eq_setBrk {s t : State} {a : Axis} {q : AxisRegs} (h : t = (s.setAxis a q).setBrk t.brk) :
    State.OnlyAxis a s t ∧ s.SameBytes t ∧ t.axis a = q := by
  rw [h]
  exact ⟨onlyAxis_setAxis_setBrk s a q _, fun _ => rfl, by rw [State.setBrk_axis, State.setAxis_axis_self]⟩

@[simp] theorem brakeDutyOf_setStatus (s : State) (a : Axis) (c : Status) :
    brakeDutyOf (s.setStatus a c) = brakeDutyOf s := by
  apply brakeDutyOf_congr <;> cases a <;> rfl

/-- `setStatus` after an update of its axis and `BRK`. -/
theorem setStatus_setAxis_setBrk (s : State) (a : Axis) (q : AxisRegs) (r : BrkRegs) (c : Status) :
    ((s.setAxis a q).setBrk r).setStatus a c =
      (s.setAxis a { q with ctl := { q.ctl with cmdStatus := c } }).setBrk r := by
  cases a <;> rfl

/-- A step in time: the commit, `OK`, and a report to `BRK` (42_foc.md R310, R311, R320). -/
theorem finishStep_intime {s : State} {a : Axis} (d : Duties) (foc : FocRegs) (hen : (s.axis a).ctl.enable = true)
    (h : (s.pwmCnt.get a).toNat < (s.axis a).pwm.deadline.toNat) :
    let t := finishStep a d (s.setFoc a foc)
    (State.OnlyAxis a s t ∧ s.SameBytes t ∧ t.axis a =
      { committedAxis s a d foc with ctl := { (s.axis a).ctl with cmdStatus := .ok } }) ∧
    t.brk = if (s.axis a.other).ctl.enable = false ∨ s.brk.reported.get a.other = true
      then { duty := brakeDutyOf t, reported := ⟨false, false⟩ }
      else { duty := s.brk.duty, reported := s.brk.reported.set a true } := by
  have hmissed : deadlineMissed a (s.setFoc a foc) = false := by rw [deadlineMissed_setFoc]; simpa using h
  simp only [finishStep_of_intime hmissed, logCount_commitTimings_setFoc]
  refine ⟨axis_of_eq_setBrk ?_, ?_⟩
  · rw [brkReport_eq, setStatus_setAxis_setBrk]
    rfl
  · have hen' : (s.setAxis a (committedAxis s a d foc)).enabled a = true := by
      rw [State.enabled_eq, State.setAxis_axis_self]; exact hen
    rw [State.setStatus_brk, brakeDutyOf_setStatus, brkReport_eq, brakeDutyOf_setBrk, State.setBrk_brk,
      brkReport_brk hen', State.enabled_eq, State.setAxis_axis_other, State.setAxis_brk]

/-- A fault of an axis and its status, in full (60_exceptions.md R405, 44_system.md R384). -/
theorem faultAxis_setStatus {s : State} {a : Axis} (e : BlockError) (q : AxisRegs) (c : Status)
    (hctl : q.ctl = (s.axis a).ctl) (hen : (s.axis a).ctl.enable = true) :
    let t := (faultAxis e a (s.setAxis a q)).setStatus a c
    (State.OnlyAxis a s t ∧ s.SameBytes t ∧ t.axis a =
      { q with ctl := { (s.axis a).ctl with
        cmdStatus := c, enable := false, error := (s.axis a).ctl.error ||| e.mask } }) ∧
    t.brk = brkAfterDisarm a s t := by
  intro t
  refine ⟨axis_of_eq_setBrk ?_, ?_⟩
  · have ht : t.brk = (faultAxis e a (s.setAxis a q)).brk := rfl
    rw [ht, ← hctl]
    show (faultAxis e a (s.setAxis a q)).setStatus a c = _
    conv_lhs =>
      rw [faultAxis_eq, State.setCtl, State.setAxis_setAxis, setStatus_setAxis_setBrk, State.setAxis_axis_self]
  · have hen' : ((s.setAxis a q).axis a).ctl.enable = true := by rw [State.setAxis_axis_self, hctl, hen]
    have hbrk : t.brk = brkAfterDisarm a (s.setAxis a q) (faultAxis e a (s.setAxis a q)) := by
      rw [State.setStatus_brk, faultAxis_brk, if_pos hen']
    rw [hbrk, brkAfterDisarm_congr (State.setAxis_axis_other s a q) rfl]
    simp only [brkAfterDisarm, t, brakeDutyOf_setStatus]

/-- A step that missed the deadline: the commit, then the timing fault with `E_TIMING` (42_foc.md R311, R312). -/
theorem finishStep_missed {s : State} {a : Axis} (d : Duties) (foc : FocRegs) (hen : (s.axis a).ctl.enable = true)
    (h : (s.axis a).pwm.deadline.toNat ≤ (s.pwmCnt.get a).toNat) :
    let t := finishStep a d (s.setFoc a foc)
    (State.OnlyAxis a s t ∧ s.SameBytes t ∧ t.axis a =
      { committedAxis s a d foc with ctl := { (s.axis a).ctl with
        cmdStatus := .eTiming, enable := false, error := (s.axis a).ctl.error ||| 4#10 } }) ∧
    t.brk = brkAfterDisarm a s t := by
  have hmissed : deadlineMissed a (s.setFoc a foc) = true := by rw [deadlineMissed_setFoc]; simpa using h
  simp only [finishStep_of_missed hmissed, logCount_commitTimings_setFoc]
  exact faultAxis_setStatus .focTiming _ .eTiming rfl hen

/-! ### The values of a `FOC_STEP` (42_foc.md R292 to R299, R302) -/

/-- The clip as one case distinction for each register (42_foc.md R297, R298). -/
theorem focClip_eq (nan : Nat → F32) (g : GlobalRegs) (f : FocRegs) (ed eq md mq : F32) :
    let lim := fmul (nan 0) g.modLimitFrac fSqrt3By2
    let mag := fsqrt (nan 4) (fadd (nan 3) (fmul (nan 1) md md) (fmul (nan 2) mq mq))
    let clip := flt lim mag
    let sf := fdiv (nan 5) lim mag
    let kit := fmul (nan 5) f.kiI g.t
    focClip nan g f ed eq md mq =
      { md := if clip then fmul (nan 6) sf md else md
        mq := if clip then fmul (nan 7) sf mq else mq
        vid := if clip then fmul (nan 8) f.vIntD fDecay else fadd (nan 7) f.vIntD (fmul (nan 6) ed kit)
        viq := if clip then fmul (nan 9) f.vIntQ fDecay else fadd (nan 9) f.vIntQ (fmul (nan 8) eq kit)
        sat := clip } := by
  intro lim mag clip sf kit
  have hclip : focClip nan g f ed eq md mq = if clip = true then
      { md := fmul (nan 6) sf md, mq := fmul (nan 7) sf mq, vid := fmul (nan 8) f.vIntD fDecay,
        viq := fmul (nan 9) f.vIntQ fDecay, sat := true }
    else
      { md := md, mq := mq, vid := fadd (nan 7) f.vIntD (fmul (nan 6) ed kit),
        viq := fadd (nan 9) f.vIntQ (fmul (nan 8) eq kit), sat := false } := rfl
  rw [hclip]
  cases clip <;> rfl

/-- Settles O44: the equations are those of `focCompute` with `focClip_eq`; the commit is `finishStep_intime`. -/
theorem focStepCommitsAndReports : Obligations.FocStepCommitsAndReports := by
  refine ⟨fun nan g r => ?equations, ?commit⟩
  case equations =>
    simp only [focCompute, focClip_eq]
    rfl
  case commit =>
    intro s a hen hfin hpos v hA hB hC htime
    have hr := focRefusal_eq_none.mpr ⟨hen, hfin, hpos⟩
    have hexec := exec_of_not_anyNaN .foc hr (anyNaN_eq_false hA hB hC)
    obtain ⟨⟨honly, hbytes, haxis⟩, hbrk⟩ := finishStep_intime v.duties _ hen htime
    refine ⟨_, hexec, honly, hbytes, haxis, hbrk⟩

/-! ### The duty fractions (42_foc.md R303 to R306) -/

/-- The six sextants as one chain of the comparisons of R303. -/
theorem svmSextant_eq (al be k : F32) : svmSextant al be k =
    if (fle 0#32 be && fle 0#32 al && !flt al k) = true then 1
    else if (fle 0#32 be && (fle 0#32 al || !flt al (fneg k))) = true then 2
    else if fle 0#32 be = true then 3
    else if (!fle 0#32 al && flt al k) = true then 4
    else if (!fle 0#32 al || flt al (fneg k)) = true then 5
    else 6 := by
  unfold svmSextant fge fgt fZero
  cases fle 0#32 be <;> cases fle 0#32 al <;> cases flt al k <;> cases flt al (fneg k) <;> rfl

/-- Settles O45: the branches of `svm` are those of `svmSextant_eq`; the commit is `finishStep_intime`. -/
theorem voltStepCommitsAndReports : Obligations.VoltStepCommitsAndReports := by
  refine ⟨?duties, ?commit⟩
  case duties =>
    intro nan al be k alPos bePos first second third
    have hk : fmul (nan 0) fOneBySqrt3 be = k := rfl
    have hs := svmSextant_eq al be k
    unfold svm
    simp only [hk]
    clear_value k
    split_ifs with h1 h2 h3 h4 h5
    · rw [hs, if_pos h1]; rfl
    · rw [hs, if_neg h1, if_pos h2]; rfl
    · rw [hs, if_neg h1, if_neg h2, if_pos h3]; rfl
    · rw [hs, if_neg h1, if_neg h2, if_neg h3, if_pos h4]; rfl
    · rw [hs, if_neg h1, if_neg h2, if_neg h3, if_neg h4, if_pos h5]; rfl
    · rw [hs, if_neg h1, if_neg h2, if_neg h3, if_neg h4, if_neg h5]; rfl
  case commit =>
    intro s a hen hfin hpos vToMod d hA hB hC htime
    have hr := focRefusal_eq_none.mpr ⟨hen, hfin, hpos⟩
    have hexec := exec_of_not_anyNaN .volt hr (anyNaN_eq_false hA hB hC)
    obtain ⟨⟨honly, hbytes, haxis⟩, hbrk⟩ := finishStep_intime d _ hen htime
    refine ⟨_, hexec, honly, hbytes, haxis, hbrk⟩

/-! ### A missed deadline (42_foc.md R311, R312) -/

/-- Settles O46: the next state is that of `finishStep_missed`, whose axis is disabled. -/
theorem missedDeadlineDisarmsAfterTheCommit : Obligations.MissedDeadlineDisarmsAfterTheCommit := by
  intro s a i d foc hen hfin hpos hi hA hB hC hmissed
  have hcomputes : Computes s a i d foc := by
    rcases hi with ⟨rfl, rfl, rfl⟩ | ⟨rfl, rfl, rfl⟩
    · exact .foc
    · exact .volt
  have hr := focRefusal_eq_none.mpr ⟨hen, hfin, hpos⟩
  obtain ⟨⟨honly, hbytes, haxis⟩, hbrk⟩ := finishStep_missed d foc hen hmissed
  exact ⟨_, exec_of_not_anyNaN hcomputes hr (anyNaN_eq_false hA hB hC), honly, hbytes, haxis, hbrk,
    fun j hj => onlyStatus_of_focRefusal hj (focRefusal_of_disabled (by rw [haxis]))⟩

end Sys2Proof.Proofs
end

section
/-!
PROOFS. O47: a NaN duty fraction is a modulation fault, and a NaN sample or test voltage reaches the duty fractions
(42_foc.md R300, R301, R303, R309).
-/

namespace Sys2Proof.Proofs
open Sys2Proof Sys2Proof.Machine

/-! ### NaNs through the equations of R293 to R303 -/

theorem isNaN_fsqrt {nan x : F32} (hn : isNaN nan = true) (h : isNaN x = true) : isNaN (fsqrt nan x) = true := by
  simp [fsqrt, h, hn]

section NaNDraws
variable {nan : Nat → F32} (hn : ∀ n, isNaN (nan n) = true)
include hn

/-- A vector with a NaN is not clipped: its magnitude is a NaN, and no comparison with it holds (42_foc.md R298). -/
theorem focClip_of_isNaN {g : GlobalRegs} {f : FocRegs} {ed eq md mq : F32} (h : isNaN md = true ∨ isNaN mq = true) :
    (focClip nan g f ed eq md mq).md = md ∧ (focClip nan g f ed eq md mq).mq = mq ∧
      (focClip nan g f ed eq md mq).sat = false := by
  have hmag : isNaN (fsqrt (nan 4) (fadd (nan 3) (fmul (nan 1) md md) (fmul (nan 2) mq mq))) = true := by
    refine isNaN_fsqrt (hn _) (isNaN_fadd (hn _) ?_)
    exact h.imp (fun h => isNaN_fmul (hn _) (.inl h)) (fun h => isNaN_fmul (hn _) (.inl h))
  simp only [focClip_eq, flt_of_isNaN (.inr hmag), Bool.false_eq_true, if_false, and_self]

/-- A NaN current component is a NaN modulation component: `e`, `v` and `m` of one axis of the rotating frame
(42_foc.md R294 to R296). -/
theorem isNaN_modulation {set meas int kp vToMod : F32} (n0 n1 n2 n3 : Nat) (h : isNaN meas = true) :
    isNaN (fmul (nan n3) vToMod (fadd (nan n2) int (fmul (nan n1) (fsub (nan n0) set meas) kp))) = true :=
  isNaN_fmul (hn _) (.inr (isNaN_fadd (hn _) (.inr (isNaN_fmul (hn _) (.inl (isNaN_fsub (hn _) (.inr h)))))))

/-- A NaN sample reaches a duty fraction (42_foc.md R293, R300). -/
theorem anyNaN_focCompute {g : GlobalRegs} {r : AxisRegs}
    (h : isNaN r.samp.sampleB = true ∨ isNaN r.samp.sampleC = true) : (focCompute nan g r).duties.anyNaN = true := by
  have hAlpha : isNaN (fsub (nan 0) (fneg r.samp.sampleB) r.samp.sampleC) = true :=
    isNaN_fsub (hn _) (h.imp_left fun h => (isNaN_fneg _).trans h)
  have hid : isNaN (focCompute nan g r).id = true := isNaN_fadd (hn 5) (.inl (isNaN_fmul (hn 3) (.inr hAlpha)))
  have hm := isNaN_modulation hn (set := r.foc.idSet) (int := r.foc.vIntD) (kp := r.foc.kpI)
    (vToMod := voltsToMod (fun n => nan (15 + n)) g.vbus) 9 11 12 17 hid
  have hmd : isNaN (focCompute nan g r).md = true :=
    (congrArg isNaN (focClip_of_isNaN (fun n => hn (20 + n)) (.inl hm)).1).trans hm
  exact isNaN_svm (fun n => hn (40 + n)) (.inl (isNaN_fsub (hn _) (.inl (isNaN_fmul (hn _) (.inr hmd)))))

/-- A NaN test voltage reaches a duty fraction (42_foc.md R301). -/
theorem anyNaN_voltDuties {g : GlobalRegs} {f : FocRegs} (h : isNaN f.vAlpha = true ∨ isNaN f.vBeta = true) :
    (voltDuties nan g f).anyNaN = true :=
  isNaN_svm (fun n => hn (40 + n))
    (h.imp (fun h => isNaN_fmul (hn _) (.inr h)) (fun h => isNaN_fmul (hn _) (.inr h)))

end NaNDraws

/-! ### The modulation fault -/

/-- Settles O47: the fault is that of `faultAxis_setStatus`, and `isNaN_svm` carries the NaN to the duty fractions. -/
theorem naNDutyIsAModulationFault : Obligations.NaNDutyIsAModulationFault := by
  intro s a foc vToMod volt someNaN
  have hn := isNaN_nanDraw s
  refine ⟨fun hen hfin hpos i hi => ?_, fun h => anyNaN_iff.mp (anyNaN_focCompute hn h),
    fun h => anyNaN_iff.mp (anyNaN_voltDuties hn h)⟩
  have hr := focRefusal_eq_none.mpr ⟨hen, hfin, hpos⟩
  have hexec : exec i s = .next (modulationFault a s) := by
    rcases hi with ⟨rfl, h⟩ | ⟨rfl, h⟩
    · exact exec_of_anyNaN .foc hr (anyNaN_iff.mpr h)
    · exact exec_of_anyNaN .volt hr (anyNaN_iff.mpr h)
  obtain ⟨⟨honly, hbytes, haxis⟩, hbrk⟩ := faultAxis_setStatus .modulation (s.axis a) .eModulation rfl hen
  rw [State.setAxis_own] at honly hbytes haxis hbrk
  exact ⟨_, hexec, honly, hbytes, haxis, hbrk⟩

end Sys2Proof.Proofs
end

section
/-!
PROOFS. O48 and O49: the compare count of a duty fraction (42_foc.md R310), and the decay of the integrators of a
clipped `FOC_STEP` (R298).
-/

namespace Sys2Proof.Proofs
open Sys2Proof Sys2Proof.Machine

/-! ### A duty fraction limited to `[0, 1]` (00_scope.md R21) -/

/-- What `fmin01` makes of a value that is not a NaN: a value from zero, of either sign, to one. -/
structure UnitRange (x : F32) : Prop where
  magnitude : fMag x ≤ fMag fOne
  sign : fSign x = true → fMag x = 0

theorem unitRange_fmin01 {t : F32} (h : isNaN t = false) : UnitRange (fmin01 t) := by
  unfold fmin01 fgt
  split_ifs with hlow hhigh
  · exact ⟨by decide, fun h => absurd h (by decide)⟩
  · exact ⟨le_rfl, fun h => absurd h (by decide)⟩
  · have hsign := (fle_fZero_iff.mp (fle_of_not_flt isNaN_fZero h hlow)).2
    have hle := fle_of_not_flt h isNaN_fOne hhigh
    have h0 : fSign t = true → fMag t = 0 := fun hs => (hsign hs).resolve_right (by simp [h])
    refine ⟨?_, h0⟩
    cases hs : fSign t with
    | true => rw [h0 hs]; exact Nat.zero_le _
    | false =>
      have h1 : fSign fOne = false := by decide
      simpa [fle, h, fKey, hs, h1] using hle

theorem fUnits_fOne : fUnits fOne = 2 ^ 149 := by
  have h : fMag fOne = 0x3F800000 := by decide
  rw [fUnits_eq_magValue, h]; norm_num [magValue]

/-- At most one, times a count below `2^24`: the product is rounded from at most the count, which is exact. -/
theorem fmul_unitRange_i2f {x : F32} (hx : UnitRange x) {n : Nat} (hn : n < 2 ^ 24) (nan : F32) :
    isFinite (fmul nan x (i2f n)) = true ∧ fUnits (fmul nan x (i2f n)) ≤ n * 2 ^ 149 ∧
      (fSign (fmul nan x (i2f n)) = true → fUnits (fmul nan x (i2f n)) = 0) := by
  obtain ⟨hsign, hfin, hunits⟩ := exactCount_i2f hn
  have hxfin : isFinite x = true := decide_eq_true (hx.magnitude.trans_lt (by decide))
  obtain ⟨k, hk, hval⟩ := exists_magValue_eq_natCast hn
  have hxunits : fUnits x ≤ 2 ^ 149 := fUnits_fOne ▸ magValue_strictMono.monotone hx.magnitude
  have hmag : fMag (fmul nan x (i2f n)) = roundMag (fUnits x * (n * 2 ^ 149)) (2 ^ 149) := by
    rw [fmul_of_isFinite hxfin hfin, fMag_fPack (roundMag_lt _ _), hunits]
  have hle : fMag (fmul nan x (i2f n)) ≤ k := by
    rw [hmag]
    refine roundMag_le_of_le_magValue (by positivity) ?_
    rw [hval, Nat.mul_comm]
    exact Nat.mul_le_mul_left _ hxunits
  refine ⟨decide_eq_true (hle.trans_lt hk), hval ▸ magValue_strictMono.monotone hle, fun hs => ?_⟩
  rw [fmul_of_isFinite hxfin hfin, fSign_fPack (roundMag_lt _ _), hsign, Bool.bne_false] at hs
  rw [fUnits_eq_zero, hmag, fUnits_eq_zero.mpr (hx.sign hs), Nat.zero_mul, roundMag_zero]

/-- Settles O48: `fmin01` limits the duty fraction, so the product is rounded from at most `PWM_PERIOD`. -/
theorem compareCountStaysWithinThePeriod : Obligations.CompareCountStaysWithinThePeriod := by
  intro nan t period ht x
  have hperiod := period.isLt
  obtain ⟨hfin, hle, hzero⟩ := fmul_unitRange_i2f (unitRange_fmin01 ht) (n := period.toNat) (by omega) nan
  have hcount : fUnits x / 2 ^ 149 ≤ period.toNat := Nat.div_le_of_le_mul (by rwa [Nat.mul_comm] at hle)
  have hsign : fInt x = fUnits x ∧ fTrunc x = (fUnits x / 2 ^ 149 : Nat) := by
    cases hs : fSign x with
    | false => simp [fInt, fTrunc, hs]
    | true => simp [fInt, fTrunc, hs, show fUnits x = 0 from hzero hs]
  refine ⟨hfin, by omega, by omega, ?_⟩
  show (BitVec.ofNat 16 (fUnits x / 2 ^ 149)).toNat ≤ period.toNat
  exact (Nat.mod_le _ _).trans hcount

/-! ### The decay (42_foc.md R298, 00_scope.md R25) -/

/-- What is nearer a field's value than the next one's does not round above the field. -/
theorem roundMag_le_of_below_midpoint {n d k : Nat}
    (h : 2 * n < (magValue k + magValue (k + 1)) * d) : roundMag n d ≤ k := by
  have hmono := Nat.mul_le_mul_right d (magValue_strictMono (Nat.lt_add_one k)).le
  rw [Nat.add_mul] at h
  have hn : n < magValue (k + 1) * d := by omega
  have hlt := Nat.lt_of_mul_lt_mul_right ((magValue_lowerField_mul_le n d).trans_lt hn)
  rcases (Nat.lt_succ_iff.mp (magValue_strictMono.lt_iff_lt.mp hlt)).eq_or_lt with rfl | hlow
  · have hdown : ¬RoundsUp n d := by unfold RoundsUp; omega
    exact (roundMag_of_not_roundsUp hdown).trans_le (Nat.min_le_left _ _)
  · exact (roundMag_le_succ_lowerField n d).trans hlow

theorem fUnits_fDecay : fUnits fDecay = 0xFD70A4 * 2 ^ 125 := by
  have h : fMag fDecay = 0x3F7D70A4 := by decide
  rw [fUnits_eq_magValue, h]; norm_num [magValue]

/-- A field from 64 units on lies within one part in 50 of its predecessor. -/
theorem magValue_succ_le {k : Nat} (h : 64 ≤ magValue (k + 1)) : 50 * magValue (k + 1) ≤ 51 * magValue k := by
  obtain ⟨sh, t, rfl, ht, hsh⟩ := exists_exponent_significand k
  rw [Nat.add_assoc, magValue_mul_add ht (by omega)] at h
  rw [Nat.add_assoc, magValue_mul_add ht (by omega), magValue_mul_add ht.le hsh, ← Nat.mul_assoc, ← Nat.mul_assoc]
  refine Nat.mul_le_mul_right _ ?_
  rcases hsh with rfl | hsh <;> omega

/-- A finite value times `DECAY`, about 0.99: the sign stays, the magnitude does not grow, and
shrinks from 64 units on. -/
theorem fmul_fDecay {x : F32} (hx : isFinite x = true) (nan : F32) :
    fSign (fmul nan x fDecay) = fSign x ∧ fMag (fmul nan x fDecay) ≤ fMag x ∧
      (64 ≤ fUnits x → fMag (fmul nan x fDecay) < fMag x) := by
  have hsign : fSign fDecay = false := by decide
  rw [fmul_of_isFinite hx (by decide), fSign_fPack (roundMag_lt _ _), fMag_fPack (roundMag_lt _ _), hsign,
    fUnits_fDecay, Bool.bne_false, fUnits_eq_magValue]
  refine ⟨rfl, roundMag_le_of_le_magValue (by positivity) (Nat.mul_le_mul_left _ (by norm_num)), fun h64 => ?_⟩
  cases hm : fMag x with
  | zero => rw [hm] at h64; exact absurd h64 (by decide)
  | succ k =>
    rw [hm] at h64
    have hclose := magValue_succ_le h64
    exact Nat.lt_succ_of_le (roundMag_le_of_below_midpoint (by omega))

/-- The decay of a value that is not a NaN shows no draw. -/
theorem fmul_fDecay_draw {x : F32} (hx : isNaN x = false) (n n' : F32) : fmul n x fDecay = fmul n' x fDecay := by
  rcases isFinite_or x with h | h | h
  · exact fmul_draw_of_isFinite h (by decide) n n'
  · rw [fmul_inf_left h (by decide) (by decide), fmul_inf_left h (by decide) (by decide)]
  · rw [hx] at h; cases h

/-! ### A clipped step -/

section Clipped
variable {nan : Nat → F32} {g : GlobalRegs} {r : AxisRegs}

/-- A step that clips multiplies each integrator by `DECAY`. -/
theorem focCompute_of_sat (h : (focCompute nan g r).sat = true) :
    (focCompute nan g r).vid = fmul (nan 28) r.foc.vIntD fDecay ∧
      (focCompute nan g r).viq = fmul (nan 29) r.foc.vIntQ fDecay := by
  simp only [focCompute, focClip_eq] at h ⊢
  simp only [h, if_true, and_self]

/-- A step with a NaN integrator does not clip: the modulation is a NaN. -/
theorem isNaN_integrators_of_sat (hn : ∀ n, isNaN (nan n) = true) (h : (focCompute nan g r).sat = true) :
    isNaN r.foc.vIntD = false ∧ isNaN r.foc.vIntQ = false := by
  have hsat {ed eq md mq : F32} (hm : isNaN md = true ∨ isNaN mq = true) :
      (focClip (fun n => nan (20 + n)) g r.foc ed eq md mq).sat = true → False := by
    simp [(focClip_of_isNaN (fun n => hn (20 + n)) hm).2.2]
  have hmod {int p vToMod : F32} (n2 n3 : Nat) (hint : isNaN int = true) :
      isNaN (fmul (nan n3) vToMod (fadd (nan n2) int p)) = true :=
    isNaN_fmul (hn _) (.inr (isNaN_fadd (hn _) (.inl hint)))
  refine ⟨Bool.eq_false_iff.mpr fun hd => ?_, Bool.eq_false_iff.mpr fun hq => ?_⟩
  · exact hsat (.inl (hmod 12 17 hd)) h
  · exact hsat (.inr (hmod 14 18 hq)) h

end Clipped

/-- A committed step, in time or not, leaves the registers it commits. -/
theorem finishStep_foc {s : State} {a : Axis} (d : Duties) (foc : FocRegs) (hen : (s.axis a).ctl.enable = true) :
    ((finishStep a d (s.setFoc a foc)).axis a).foc = foc := by
  rcases Nat.lt_or_ge (s.pwmCnt.get a).toNat (s.axis a).pwm.deadline.toNat with h | h
  · rw [(finishStep_intime d foc hen h).1.2.2]; rfl
  · rw [(finishStep_missed d foc hen h).1.2.2]; rfl

/-- Bit 2 of `STATUS` is `MOD_SAT` (10_state.md R72). -/
theorem readAxis_status_bit2 (s : State) (a : Axis) : (readAxis s a .status).getLsbD 2 = (s.axis a).foc.modSat := by
  simp (disch := decide) only [readAxis, BitVec.getLsbD_or, getLsbD_bitAt]
  simp

/-- Settles O49: the committed integrators are the products with `DECAY`, of values that are not NaNs. -/
theorem clippedStepDecaysTheIntegrators : Obligations.ClippedStepDecaysTheIntegrators := by
  intro s a hen hfin hpos v hsat hA hB hC
  have hr := focRefusal_eq_none.mpr ⟨hen, hfin, hpos⟩
  have hfoc := finishStep_foc v.duties (committedFoc v (s.axis a).foc) hen
  obtain ⟨hvid, hviq⟩ := focCompute_of_sat hsat
  obtain ⟨hd, hq⟩ := isNaN_integrators_of_sat (isNaN_nanDraw s) hsat
  have hdecay {x y nan : F32} (hx : isNaN x = false) (hy : y = fmul nan x fDecay) :
      (∀ n, y = fmul n x 0x3F7D70A4#32) ∧
        (isFinite x = true → fSign y = fSign x ∧ fMag y ≤ fMag x ∧ (64 ≤ fUnits x → fMag y < fMag x)) :=
    ⟨fun n => hy.trans (fmul_fDecay_draw hx _ n), fun hfin => hy ▸ fmul_fDecay hfin nan⟩
  refine ⟨_, exec_of_not_anyNaN .foc hr (anyNaN_eq_false hA hB hC), ?_, ?_⟩
  · rw [readAxis_status_bit2, hfoc]; exact hsat
  · rw [hfoc]
    simp only [List.forall_mem_cons]
    exact ⟨hdecay hd hvid, hdecay hq hviq, nofun⟩

end Sys2Proof.Proofs
end

section
/-!
PROOFS. O29: the reports of two armed axes, and the aggregate's formula whatever NaNs its operations draw
(42_foc.md R320, R321).
-/

namespace Sys2Proof.Proofs
open Sys2Proof Sys2Proof.Machine

/-! ### The reports (42_foc.md R320) -/

section Reports
variable {s : State} {a : Axis} (hen : s.enabled a = true) (hother : s.enabled a.other = true)
include hen hother

/-- The report of an armed axis while the other one has none is recorded, and no more. -/
theorem brkReport_first (h : s.brk.reported.get a.other = false) :
    brkReport a s = s.setBrk { duty := s.brk.duty, reported := s.brk.reported.set a true } := by
  rw [brkReport_eq, brkReport_brk hen, if_neg (by simp [hother, h])]

/-- The reports of two armed axes: the second one aggregates. -/
theorem brkReport_brkReport (h : s.brk.reported.get a.other = false) :
    brkReport a.other (brkReport a s) = s.setBrk { duty := brakeDutyOf s, reported := ⟨false, false⟩ } := by
  have hother' : (s.setBrk { duty := s.brk.duty, reported := s.brk.reported.set a true }).enabled a.other = true :=
    hother
  rw [brkReport_first hen hother h, brkReport_eq, brkReport_brk hother', Axis.other_other,
    if_pos (.inr (PerAxis.get_set_self _ a true)), brakeDutyOf_setBrk, State.setBrk_setBrk]

end Reports

/-! ### The aggregate does not depend on which axis is which -/

/-- A sum does not depend on the order of its operands. -/
theorem fadd_comm (nan x y : F32) : fadd nan x y = fadd nan y x := by
  by_cases hinf : isInf x = true ∧ isInf y = true
  · obtain ⟨hx, hy⟩ := hinf
    by_cases hxy : y = x
    · rw [hxy]
    · rw [fadd_inf_opposite hx hy hxy, fadd_inf_opposite hy hx (Ne.symm hxy)]
  · unfold fadd
    rw [Bool.or_comm, Int.add_comm, Bool.and_comm (fSign x)]
    split_ifs <;> simp_all

/-! ### Values up to the NaN drawn (00_scope.md R24) -/

/-- Equal, or both some NaN: what a change of the free draws can do to a value (00_scope.md R24). -/
def SameUpToNaN (x y : F32) : Prop := x = y ∨ isNaN x = true ∧ isNaN y = true

theorem SameUpToNaN.refl (x : F32) : SameUpToNaN x x := .inl rfl

/-- An operation that returns its draw, or the same for every draw, at two draws. -/
theorem sameUpToNaN_of_draw {f : F32 → F32} (h : (∀ n, f n = n) ∨ ∀ n n', f n = f n') {n n' : F32}
    (hn : isNaN n = true) (hn' : isNaN n' = true) : SameUpToNaN (f n) (f n') := by
  rcases h with h | h
  · exact .inr ⟨by rwa [h], by rwa [h]⟩
  · exact .inl (h n n')

section
variable {n n' x x' y : F32} (hn : isNaN n = true) (hn' : isNaN n' = true)
include hn hn'

theorem SameUpToNaN.fmul_right (hx : SameUpToNaN x x') : SameUpToNaN (fmul n x y) (fmul n' x' y) := by
  rcases hx with rfl | ⟨h, h'⟩
  · exact sameUpToNaN_of_draw (fmul_draw x y) hn hn'
  · exact .inr ⟨isNaN_fmul hn (.inl h), isNaN_fmul hn' (.inl h')⟩

theorem SameUpToNaN.fdiv_right (hx : SameUpToNaN x x') : SameUpToNaN (fdiv n x y) (fdiv n' x' y) := by
  rcases hx with rfl | ⟨h, h'⟩
  · exact sameUpToNaN_of_draw (fdiv_draw x y) hn hn'
  · refine .inr ?_
    rw [(eq_nan_of_isNaN (.inl h) n).2.2, (eq_nan_of_isNaN (.inl h') n').2.2]
    exact ⟨hn, hn'⟩

end

/-- The part of a value above zero, a NaN's being zero, does not show which NaN it was. -/
theorem SameUpToNaN.positivePart {x y : F32} (h : SameUpToNaN x y) :
    (if flt fZero (fneg x) = true then fneg x else fZero) = if flt fZero (fneg y) = true then fneg y else fZero := by
  rcases h with rfl | ⟨h, h'⟩
  · rfl
  · rw [flt_of_isNaN (.inr ((isNaN_fneg x).trans h)), flt_of_isNaN (.inr ((isNaN_fneg y).trans h'))]
    rfl

theorem SameUpToNaN.zeroForNaN {x y : F32} (h : SameUpToNaN x y) :
    (if isNaN x = true then fZero else x) = if isNaN y = true then fZero else y := by
  rcases h with rfl | ⟨h, h'⟩
  · rfl
  · rw [if_pos h, if_pos h']

theorem SameUpToNaN.ite {x y z : F32} {c : Prop} [Decidable c] (h : SameUpToNaN x y) :
    SameUpToNaN (if c then x else z) (if c then y else z) := by
  split
  · exact h
  · exact .refl z

/-! ### The aggregate (42_foc.md R321) -/

/-- The duty from the draws of the three operations, the configuration and what each axis adds to the bus current. -/
def brakeDutyWith (n0 n1 n2 : F32) (g : GlobalRegs) (i0 i1 : F32) : F32 :=
  let regen := fneg (fadd n0 i0 i1)
  let ib := if flt fZero regen then regen else fZero
  let d := if isFinite g.vbus && flt fZero g.vbus then fdiv n2 (fmul n1 ib g.brakeR) g.vbus else fZero
  let d0 := if isNaN d then fZero else d
  if flt g.brakeDutyMax d0 then g.brakeDutyMax else d0

theorem brakeDutyOf_eq (s : State) : brakeDutyOf s =
    brakeDutyWith (s.nanDraw 100) (s.nanDraw 101) (s.nanDraw 102) s.g (s.ibusOf .ax0) (s.ibusOf .ax1) := rfl

theorem brakeDutyWith_comm (n0 n1 n2 : F32) (g : GlobalRegs) (i0 i1 : F32) :
    brakeDutyWith n0 n1 n2 g i0 i1 = brakeDutyWith n0 n1 n2 g i1 i0 := by
  rw [brakeDutyWith, fadd_comm]; rfl

/-- No draw passes the two checks of R321: a NaN current is none fed back, and a NaN duty is zero. -/
theorem brakeDutyWith_draw {n0 n1 n2 m0 m1 m2 : F32} (h0 : isNaN n0 = true) (h1 : isNaN n1 = true)
    (h2 : isNaN n2 = true) (k0 : isNaN m0 = true) (k1 : isNaN m1 = true) (k2 : isNaN m2 = true) (g : GlobalRegs)
    (i0 i1 : F32) : brakeDutyWith n0 n1 n2 g i0 i1 = brakeDutyWith m0 m1 m2 g i0 i1 := by
  have hsum : SameUpToNaN (fadd n0 i0 i1) (fadd m0 i0 i1) := sameUpToNaN_of_draw (fadd_draw i0 i1) h0 k0
  have hquot (ib : F32) := ((SameUpToNaN.refl ib).fmul_right (y := g.brakeR) h1 k1).fdiv_right (y := g.vbus) h2 k2
  have hduty (ib : F32) :=
    ((hquot ib).ite (z := fZero) (c := (isFinite g.vbus && flt fZero g.vbus) = true)).zeroForNaN
  simp only [brakeDutyWith, hsum.positivePart, hduty]

/-- Settles O29: the second report aggregates, in either order; `brakeDutyWith` is symmetric and shows no draw. -/
theorem brakeReportsCommuteAndFollowTheFormula : Obligations.BrakeReportsCommuteAndFollowTheFormula := by
  refine ⟨fun s h0 h1 hrep => ?reports, fun s => brakeDutyWith_comm _ _ _ s.g _ _, ?formula⟩
  case reports =>
    have hnone (a : Axis) : s.brk.reported.get a = false := by rw [hrep]; cases a <;> rfl
    have h01 := brkReport_brkReport (a := .ax0) h0 h1 (hnone _)
    have h10 := brkReport_brkReport (a := .ax1) h1 h0 (hnone _)
    refine ⟨h01.trans h10.symm, h01, fun a => ?_⟩
    cases a with
    | ax0 => rw [brkReport_first h0 h1 (hnone _), State.setBrk_brk]
    | ax1 => rw [brkReport_first h1 h0 (hnone _), State.setBrk_brk]
  case formula =>
    intro s n0 n1 n2 h0 h1 h2 ibusOf regen ib vb d d0
    have hn := isNaN_nanDraw s
    exact (brakeDutyOf_eq s).trans (brakeDutyWith_draw (hn _) (hn _) (hn _) h0 h1 h2 s.g _ _)

end Sys2Proof.Proofs
end

section
/-!
PROOFS. O50: the worked example V-FOC-1 of 95_test_vectors.md. Every operation of it yields a number, so none of its
free draws shows, and the kernel evaluates the rest.
-/

namespace Sys2Proof.Proofs
open Sys2Proof Sys2Proof.Machine

/-! ### Operations that yield a number show no draw (00_scope.md R24) -/

/-- One NaN, to evaluate an operation with. -/
def quietNaN : F32 := 0x7FC00000#32

theorem eq_quietNaN_of_draw {f : F32 → F32} (hf : (∀ n, f n = n) ∨ ∀ n n', f n = f n')
    (h : isNaN (f quietNaN) = false) (n : F32) : f n = f quietNaN := by
  rcases hf with hf | hf
  · rw [hf] at h; cases h
  · exact hf n quietNaN

/-- A root is its draw, or the same for every draw. -/
theorem fsqrt_draw (x : F32) : (∀ n, fsqrt n x = n) ∨ ∀ n n', fsqrt n x = fsqrt n' x := by
  unfold fsqrt
  split_ifs
  · exact .inl fun _ => rfl
  · exact .inr fun _ _ => rfl
  · exact .inl fun _ => rfl
  · exact .inr fun _ _ => rfl
  · exact .inr fun _ _ => rfl

/-- `fadd` without a draw, under a name of its own so that `simp` rewrites to it once; likewise the three below. -/
def addNum (x y : F32) : F32 := fadd quietNaN x y

/-- `fmul` without a draw. -/
def mulNum (x y : F32) : F32 := fmul quietNaN x y

/-- `fdiv` without a draw. -/
def divNum (x y : F32) : F32 := fdiv quietNaN x y

/-- `fsqrt` without a draw. -/
def sqrtNum (x : F32) : F32 := fsqrt quietNaN x

theorem fadd_eq_addNum {x y : F32} (h : isNaN (addNum x y) = false) (n : F32) : fadd n x y = addNum x y :=
  eq_quietNaN_of_draw (fadd_draw x y) h n

theorem fsub_eq_addNum {x y : F32} (h : isNaN (addNum x (fneg y)) = false) (n : F32) :
    fsub n x y = addNum x (fneg y) := fadd_eq_addNum h n

theorem fmul_eq_mulNum {x y : F32} (h : isNaN (mulNum x y) = false) (n : F32) : fmul n x y = mulNum x y :=
  eq_quietNaN_of_draw (fmul_draw x y) h n

theorem fdiv_eq_divNum {x y : F32} (h : isNaN (divNum x y) = false) (n : F32) : fdiv n x y = divNum x y :=
  eq_quietNaN_of_draw (fdiv_draw x y) h n

theorem fsqrt_eq_sqrtNum {x : F32} (h : isNaN (sqrtNum x) = false) (n : F32) : fsqrt n x = sqrtNum x :=
  eq_quietNaN_of_draw (fsqrt_draw x) h n

/-! ### The stages of V-FOC-1 -/

section Stages
variable (nan : Nat → F32)

/-- `I_alpha = 1.0`, `I_beta = +0.0` (42_foc.md R293). -/
theorem clarke_workedExample :
    fsub (nan 0) (fneg 0xBF000000#32) 0xBF000000#32 = 0x3F800000#32 ∧
      fmul (nan 2) fOneBySqrt3 (fsub (nan 1) 0xBF000000#32 0xBF000000#32) = 0#32 := by
  simp (disch := decide +kernel) only [fsub_eq_addNum, fmul_eq_mulNum]
  decide +kernel

/-- `Id = 1.0`, `Iq = +0.0` at the angle zero (42_foc.md R294). -/
theorem park_workedExample :
    fadd (nan 5) (fmul (nan 3) fOne 0x3F800000#32) (fmul (nan 4) fZero 0#32) = 0x3F800000#32 ∧
      fsub (nan 8) (fmul (nan 6) fOne 0#32) (fmul (nan 7) fZero 0x3F800000#32) = 0#32 := by
  simp (disch := decide +kernel) only [fadd_eq_addNum, fsub_eq_addNum, fmul_eq_mulNum]
  decide +kernel

/-- The errors of the currents, -1.0 and 2.0 (42_foc.md R295). -/
theorem errors_workedExample :
    fsub (nan 9) 0#32 0x3F800000#32 = 0xBF800000#32 ∧ fsub (nan 10) 0x40000000#32 0#32 = 0x40000000#32 := by
  simp (disch := decide +kernel) only [fsub_eq_addNum]
  decide +kernel

/-- `v_to_mod = 0.0625`, and `md = -0.03125`, `mq = 0.0625` from `Vd = -0.5`, `Vq = 1.0` (42_foc.md R295, R296). -/
theorem modulation_workedExample :
    voltsToMod (fun n => nan (15 + n)) 0x41C00000#32 = 0x3D800000#32 ∧
      fmul (nan 17) 0x3D800000#32 (fadd (nan 12) 0#32 (fmul (nan 11) 0xBF800000#32 0x3F000000#32)) = 0xBD000000#32 ∧
      fmul (nan 18) 0x3D800000#32 (fadd (nan 14) 0#32 (fmul (nan 13) 0x40000000#32 0x3F000000#32)) = 0x3D800000#32 := by
  simp (disch := decide +kernel) only [voltsToMod, fadd_eq_addNum, fmul_eq_mulNum, fdiv_eq_divNum]
  decide +kernel

/-- `mag = 0x3D8F1BBD` is at most `lim = 0x3E315CAC`: no clip, and the integrators accumulate (42_foc.md R297, R298). -/
theorem clip_workedExample {g : GlobalRegs} {f : FocRegs} (hlim : g.modLimitFrac = 0x3E4CCCCD#32)
    (ht : g.t = 0x3903126F#32) (hki : f.kiI = 0x42C80000#32) (hd : f.vIntD = 0#32) (hq : f.vIntQ = 0#32) :
    focClip nan g f 0xBF800000#32 0x40000000#32 0xBD000000#32 0x3D800000#32 =
      { md := 0xBD000000#32, mq := 0x3D800000#32, vid := 0xBC4CCCCD#32, viq := 0x3CCCCCCD#32, sat := false } := by
  have hmag : fsqrt (nan 4) (fadd (nan 3) (fmul (nan 1) 0xBD000000#32 0xBD000000#32)
      (fmul (nan 2) 0x3D800000#32 0x3D800000#32)) = 0x3D8F1BBD#32 := by
    simp (disch := decide +kernel) only [fadd_eq_addNum, fmul_eq_mulNum, fsqrt_eq_sqrtNum]
    decide +kernel
  simp only [focClip_eq, hmag, hlim, ht, hki, hd, hq]
  simp (disch := decide +kernel) only [fadd_eq_addNum, fmul_eq_mulNum, fdiv_eq_divNum]
  decide +kernel

/-- `IBUS = -0.03125`, and the vector `(m_alpha, m_beta) = (-0.03125, 0.0625)` (42_foc.md R299, R302). -/
theorem vector_workedExample :
    fadd (nan 32) (fmul (nan 30) 0xBD000000#32 0x3F800000#32) (fmul (nan 31) 0x3D800000#32 0#32) = 0xBD000000#32 ∧
      fsub (nan 35) (fmul (nan 33) fOne 0xBD000000#32) (fmul (nan 34) fZero 0x3D800000#32) = 0xBD000000#32 ∧
      fadd (nan 38) (fmul (nan 36) fOne 0x3D800000#32) (fmul (nan 37) fZero 0xBD000000#32) = 0x3D800000#32 := by
  simp (disch := decide +kernel) only [fadd_eq_addNum, fsub_eq_addNum, fmul_eq_mulNum]
  decide +kernel

/-- SVM case 2 (42_foc.md R304). -/
theorem svm_workedExample :
    svm nan 0xBD000000#32 0x3D800000#32 = ⟨0x3F080000#32, 0x3EED8658#32, 0x3F093CD4#32⟩ := by
  simp (disch := decide +kernel) only [svm, fHalve, fadd_eq_addNum, fsub_eq_addNum, fmul_eq_mulNum]
  decide +kernel

/-- `PWM_CMP = (2125, 1855, 2144)` at `PWM_PERIOD = 4000` (42_foc.md R310). -/
theorem counts_workedExample (n : F32) :
    compareCount n 0x3F080000#32 4000#16 = 2125#16 ∧ compareCount n 0x3EED8658#32 4000#16 = 1855#16 ∧
      compareCount n 0x3F093CD4#32 4000#16 = 2144#16 := by
  simp (disch := decide +kernel) only [compareCount, fmul_eq_mulNum]
  decide +kernel

end Stages

/-! ### The example -/

/-- The operands of V-FOC-1 that the computation reads. -/
structure WorkedOperands (g : GlobalRegs) (r : AxisRegs) : Prop where
  phaseSrc : r.ctl.phaseSrc = true
  phaseExt : r.foc.phaseExt = 0#32
  sampleB : r.samp.sampleB = 0xBF000000#32
  sampleC : r.samp.sampleC = 0xBF000000#32
  idSet : r.foc.idSet = 0#32
  iqSet : r.foc.iqSet = 0x40000000#32
  kpI : r.foc.kpI = 0x3F000000#32
  kiI : r.foc.kiI = 0x42C80000#32
  vIntD : r.foc.vIntD = 0#32
  vIntQ : r.foc.vIntQ = 0#32
  vbus : g.vbus = 0x41C00000#32
  t : g.t = 0x3903126F#32
  modLimitFrac : g.modLimitFrac = 0x3E4CCCCD#32

/-- What V-FOC-1 computes. -/
def workedValues : FocValues where
  id := 0x3F800000#32
  iq := 0#32
  md := 0xBD000000#32
  mq := 0x3D800000#32
  vid := 0xBC4CCCCD#32
  viq := 0x3CCCCCCD#32
  sat := false
  ibus := 0xBD000000#32
  duties := ⟨0x3F080000#32, 0x3EED8658#32, 0x3F093CD4#32⟩

theorem focCompute_workedExample (nan : Nat → F32) {g : GlobalRegs} {r : AxisRegs} (h : WorkedOperands g r) :
    focCompute nan g r = workedValues := by
  have hphase : focPhase r = 0#32 := by rw [focPhase, h.phaseSrc, if_pos rfl, h.phaseExt]
  have hcos : cosF 0#32 = fOne := if_pos rfl
  have hsin : sinF 0#32 = fZero := if_pos rfl
  obtain ⟨hAlpha, hBeta⟩ := clarke_workedExample nan
  obtain ⟨hId, hIq⟩ := park_workedExample nan
  obtain ⟨hEd, hEq⟩ := errors_workedExample nan
  obtain ⟨hToMod, hMd, hMq⟩ := modulation_workedExample nan
  obtain ⟨hIbus, hMAlpha, hMBeta⟩ := vector_workedExample nan
  simp only [focCompute, hphase, hcos, hsin, h.sampleB, h.sampleC, hAlpha, hBeta, hId, hIq, h.idSet, h.iqSet, hEd, hEq,
    h.kpI, h.vIntD, h.vIntQ, h.vbus, hToMod, hMd, hMq,
    clip_workedExample _ h.modLimitFrac h.t h.kiI h.vIntD h.vIntQ, hIbus, hMAlpha, hMBeta, svm_workedExample,
    workedValues]

/-- Settles O50: the values are `workedValues`, their counts `counts_workedExample`, committed in time. -/
theorem focStepWorkedExample : Obligations.FocStepWorkedExample := by
  intro s a hen hsrc hext hB hC hid hiq hkp hki hd hq hvbus ht hlim hperiod hdeadline hcnt
  have hv : focCompute s.nanDraw s.g (s.axis a) = workedValues :=
    focCompute_workedExample s.nanDraw ⟨hsrc, hext, hB, hC, hid, hiq, hkp, hki, hd, hq, hvbus, ht, hlim⟩
  have hr : focRefusal a s = none := focRefusal_eq_none.mpr ⟨hen, by rw [hvbus]; decide, by rw [hvbus]; decide⟩
  have hexec := exec_of_not_anyNaN .foc hr (by rw [hv]; decide)
  rw [hv] at hexec
  have haxis := (finishStep_intime workedValues.duties (committedFoc workedValues (s.axis a).foc) hen
    (by rw [hcnt, hdeadline]; decide)).1.2.2
  have hpwm : committedPwm s a workedValues.duties = { (s.axis a).pwm with
      cmpA := 2125#16, cmpB := 1855#16, cmpC := 2144#16
      tlog := (s.axis a).pwm.tlog.set (s.axis a).pwm.tlogIdx.toNat 1234#16 (s.axis a).pwm.tlogIdx.isLt
      tlogIdx := (s.axis a).pwm.tlogIdx + 1#4, tlast := 1234#16 } := by
    simp only [committedPwm, workedValues, hperiod, hcnt, counts_workedExample]
  refine ⟨_, hexec, ?_, ?_⟩
  · rw [readAxis, haxis]; rfl
  · simp only [List.map_cons, List.map_nil, readAxis, haxis, committedAxis, hpwm]
    rfl

end Sys2Proof.Proofs
end

section
/-!
PROOFS. O51: the lookup in the anti-cogging map (43_anticogging.md R341, R345).
-/

namespace Sys2Proof.Proofs
open Sys2Proof Sys2Proof.Machine

/-! ### What an anti-cogging command leaves when it completes (43_anticogging.md R345 to R347) -/

/-- The state after an anti-cogging command that completes, with the axis's new anti-cogging registers and the new storage. -/
def acogDone (s : State) (a : Axis) (r : AcogRegs) (m : Memory) : State :=
  (s.setAxis a { s.axis a with ctl := { (s.axis a).ctl with cmdStatus := .ok }, acog := r }).setMem m

section Done
variable (s : State) (a : Axis) (r : AcogRegs) (m : Memory)

theorem onlyAxis_acogDone : State.OnlyAxis a s (acogDone s a r m) :=
  { onlyAxis_setAxis s a _ with inputs := ⟨rfl, rfl, rfl, rfl, rfl, rfl⟩ }

theorem axis_acogDone :
    (acogDone s a r m).axis a = { s.axis a with ctl := { (s.axis a).ctl with cmdStatus := .ok }, acog := r } := by
  rw [acogDone, State.setMem_axis, State.setAxis_axis_self]

/-- The storage reads as the new storage does. -/
theorem byteAt_acogDone : (acogDone s a r m).byteAt = (s.setMem m).byteAt := rfl

theorem setAcog_setStatus_eq_acogDone : (s.setAcog a r).setStatus a .ok = acogDone s a r s.mem := by
  cases a <;> rfl

end Done

/-! ### The lookup -/

/-- A position the conversion of 00_scope.md R23 refuses. -/
theorem f2iDefined_eq_false_iff (x : F32) :
    f2iDefined x = false ↔ isFinite x = false ∨ fTrunc x < -2147483648 ∨ 2147483648 ≤ fTrunc x := by
  simp only [f2iDefined, Bool.and_eq_false_iff, decide_eq_false_iff_not, not_le, not_lt, or_assoc]

/-- The index of a lookup is below `CPR`, and congruent to the truncated position (43_anticogging.md R341). -/
theorem lookupIndex_spec (pos : F32) {cpr : Nat} (h : 1 ≤ cpr) :
    lookupIndex pos cpr < cpr ∧ (cpr : Int) ∣ fTrunc pos - lookupIndex pos cpr := by
  have hcpr : (cpr : Int) ≠ 0 := by omega
  have hcast : (lookupIndex pos cpr : Int) = fTrunc pos % cpr := Int.toNat_of_nonneg (Int.emod_nonneg _ hcpr)
  have hlt : fTrunc pos % cpr < cpr := Int.emod_lt_of_pos _ (by omega)
  exact ⟨by omega, hcast ▸ Int.dvd_self_sub_emod⟩

/-- Settles O51: the branches of R345 in order, the index by `lookupIndex_spec`. -/
theorem lookupReadsTheMapAtTheWrappedPosition : Obligations.LookupReadsTheMapAtTheWrappedPosition := by
  intro s a hcpr r cpr done
  have hdone (ff : F32) : done ((s.setAcog a { r with ff := ff }).setStatus a .ok) ff := by
    rw [setAcog_setStatus_eq_acogDone]
    exact ⟨onlyAxis_acogDone .., rfl, fun _ => rfl, axis_acogDone ..⟩
  by_cases hvalid : r.mapValid = false
  · exact ⟨_, if_pos hvalid, by rw [if_pos hvalid]; exact hdone _⟩
  by_cases harg : f2iDefined r.pos = false
  · refine ⟨_, (if_neg hvalid).trans (if_pos (by simpa using harg)), ?_⟩
    rw [if_neg hvalid, if_pos ((f2iDefined_eq_false_iff _).mp harg)]
    exact onlyStatus_setStatus s a .eArg
  have harg' : ¬(!f2iDefined r.pos) = true := by simpa using harg
  by_cases hsize : 8192 < cpr
  · refine ⟨_, (if_neg hvalid).trans ((if_neg harg').trans (if_pos hsize)), ?_⟩
    rw [if_neg hvalid, if_neg (mt (f2iDefined_eq_false_iff _).mpr harg), if_pos hsize]
    exact onlyStatus_setStatus s a .eSize
  · refine ⟨_, (if_neg hvalid).trans ((if_neg harg').trans (if_neg hsize)), ?_⟩
    rw [if_neg hvalid, if_neg (mt (f2iDefined_eq_false_iff _).mpr harg), if_neg hsize]
    obtain ⟨hlt, hdvd⟩ := lookupIndex_spec r.pos hcpr
    exact ⟨_, hlt, hdvd, hdone _⟩

end Sys2Proof.Proofs
end

section
/-!
PROOFS. O53: the selection of the strongest harmonics (43_anticogging.md R343, R344, R352).
-/

namespace Sys2Proof.Proofs
open Sys2Proof Sys2Proof.Machine

/-! ### The keys of the bins (43_anticogging.md R344) -/

/-- A sum of two values that are not negative is a NaN or not negative. -/
theorem isNaN_or_fSign_fadd {nan x y : F32} (hnan : isNaN nan = true) (hx : isNaN x = true ∨ fSign x = false)
    (hy : isNaN y = true ∨ fSign y = false) : isNaN (fadd nan x y) = true ∨ fSign (fadd nan x y) = false := by
  by_cases hn : isNaN x = true ∨ isNaN y = true
  · exact .inl (isNaN_fadd hnan hn)
  obtain ⟨hxn, hyn⟩ := not_or.mp hn
  replace hx := hx.resolve_left hxn
  replace hy := hy.resolve_left hyn
  refine .inr ?_
  have hsum : ¬fInt x + fInt y < 0 := by simp only [fInt, hx, hy, Bool.false_eq_true, if_false]; omega
  simp only [fadd, hxn, hyn, hx, hy, bne_self_eq_false, Bool.and_false, Bool.and_self, Bool.or_self, Bool.false_eq_true,
    if_false]
  split_ifs
  · exact hx
  · exact hy
  · exact fSign_fPack (by decide)
  · rw [fOfUnits, fSign_fPack (roundMag_lt _ _), decide_eq_false hsum]

/-- A square is a NaN or not negative. -/
theorem isNaN_or_fSign_fmul_self {nan : F32} (hnan : isNaN nan = true) (x : F32) :
    isNaN (fmul nan x x) = true ∨ fSign (fmul nan x x) = false := by
  unfold fmul
  rw [bne_self_eq_false]
  split_ifs
  · exact .inl hnan
  · exact .inl hnan
  · exact .inr (fSign_fPack (by decide))
  · exact .inr (fSign_fPack (roundMag_lt _ _))

/-- No key is below that of a NaN. -/
theorem neg_one_le_harmonicKey (x : Cplx) : -1 ≤ harmonicKey x := by
  have hnan : isNaN (asNaN 0#32) = true := isNaN_asNaN _
  have hsum := isNaN_or_fSign_fadd hnan (isNaN_or_fSign_fmul_self hnan x.1) (isNaN_or_fSign_fmul_self hnan x.2)
  rw [harmonicKey, fmag2]
  split_ifs with h
  · exact le_rfl
  · simp only [fKey, hsum.resolve_left h, Bool.false_eq_true, if_false]
    omega

/-! ### The choice of one bin -/

theorem le_maxKey {cs : List (Nat × Int)} {c : Nat × Int} (h : c ∈ cs) : c.2 ≤ maxKey cs := by
  induction cs with
  | nil => cases h
  | cons d cs ih =>
    rcases List.mem_cons.mp h with rfl | h
    · exact le_max_left _ _
    · exact (ih h).trans (le_max_right _ _)

/-- Some candidate has the greatest key. -/
theorem exists_mem_maxKey {cs : List (Nat × Int)} (hne : cs ≠ []) (h : ∀ c ∈ cs, -1 ≤ c.2) :
    ∃ c ∈ cs, c.2 = maxKey cs := by
  induction cs with
  | nil => exact absurd rfl hne
  | cons d cs ih =>
    rcases le_total (maxKey cs) d.2 with hle | hle
    · exact ⟨d, List.mem_cons_self, (max_eq_left hle).symm⟩
    rw [show maxKey (d :: cs) = maxKey cs from max_eq_right hle]
    by_cases hcs : cs = []
    · subst hcs
      exact ⟨d, List.mem_cons_self, le_antisymm hle (h d List.mem_cons_self)⟩
    · obtain ⟨c, hc, heq⟩ := ih hcs fun c hc => h c (List.mem_cons_of_mem d hc)
      exact ⟨c, List.mem_cons_of_mem d hc, heq⟩

/-- Every draw of the ties picks one of the tied bins. -/
theorem tieDraw_mem (draw : Nat) {ks : List Nat} (h : ks ≠ []) : tieDraw draw ks ∈ ks := by
  match ks with
  | [] => exact absurd rfl h
  | [k] => exact List.mem_singleton_self k
  | k :: k' :: ks =>
    have hlt : draw % (k :: k' :: ks).length < (k :: k' :: ks).length := Nat.mod_lt _ (Nat.succ_pos _)
    rw [tieDraw, List.getD_eq_getElem _ _ hlt]
    · exact List.getElem_mem hlt
    · simp

/-! ### The selection -/

/-- The bins with their keys. -/
def withKeys (key : Nat → Int) (bins : List Nat) : List (Nat × Int) := bins.map fun k => (k, key k)

/-- The bin `selectBins` chooses next from `bins`. -/
def chosenBin (key : Nat → Int) (draw : Nat) (bins : List Nat) : Nat :=
  tieDraw draw (((withKeys key bins).filter fun x => decide (x.2 = maxKey (withKeys key bins))).map Prod.fst)

/-- One of the bins with the greatest key is chosen. -/
theorem chosenBin_spec {key : Nat → Int} (hkey : ∀ k, -1 ≤ key k) (draw : Nat) {bins : List Nat} (hne : bins ≠ []) :
    chosenBin key draw bins ∈ bins ∧ ∀ k ∈ bins, key k ≤ key (chosenBin key draw bins) := by
  obtain ⟨c, hc, hmax⟩ := exists_mem_maxKey (cs := withKeys key bins) (by simpa [withKeys] using hne)
    (List.forall_mem_map.mpr fun k _ => hkey k)
  have hbest : c ∈ (withKeys key bins).filter fun x => decide (x.2 = maxKey (withKeys key bins)) :=
    List.mem_filter.mpr ⟨hc, decide_eq_true hmax⟩
  have hmem := tieDraw_mem draw (List.ne_nil_of_mem (List.mem_map_of_mem (f := Prod.fst) hbest))
  obtain ⟨d, hd, heq⟩ := List.mem_map.mp hmem
  obtain ⟨hd, hdmax⟩ := List.mem_filter.mp hd
  obtain ⟨k, hk, rfl⟩ := List.mem_map.mp hd
  rw [chosenBin, ← heq]
  refine ⟨hk, fun k' hk' => ?_⟩
  exact (le_maxKey (List.mem_map_of_mem (f := fun k => (k, key k)) hk')).trans_eq (of_decide_eq_true hdmax).symm

theorem withKeys_erase (key : Nat → Int) {bins : List Nat} (hnd : bins.Nodup) (b : Nat) :
    withKeys key (bins.erase b) = (withKeys key bins).filter fun x => decide (x.1 ≠ b) := by
  rw [hnd.erase_eq_filter, withKeys, withKeys, List.filter_map]
  exact congrArg _ (List.filter_congr fun k _ => Bool.eq_iff_iff.mpr (by simp))

/-- One entry is chosen, and the rest is chosen from the other bins. -/
theorem selectBins_withKeys (tie : Nat → Nat) (n j : Nat) (key : Nat → Int) {bins : List Nat} (hne : bins ≠ [])
    (hnd : bins.Nodup) :
    selectBins tie (n + 1) j (withKeys key bins) =
      some (chosenBin key (tie j) bins) ::
        selectBins tie n (j + 1) (withKeys key (bins.erase (chosenBin key (tie j) bins))) := by
  obtain ⟨k, ks, rfl⟩ := List.exists_cons_of_ne_nil hne
  rw [withKeys_erase key hnd]
  rfl

/-- With no bin left the entries are padding. -/
theorem selectBins_nil (tie : Nat → Nat) (n j : Nat) : selectBins tie n j [] = List.replicate n none := by
  induction n generalizing j with
  | zero => rfl
  | succ n ih => rw [selectBins, ih, List.replicate_succ]

/-- `ks` are `n` of the `bins`, or all of them if they are fewer, strongest first, and none left out is stronger. -/
structure Selection (key : Nat → Int) (bins : List Nat) (n : Nat) (ks : List Nat) : Prop where
  length : ks.length = min n bins.length
  nodup : ks.Nodup
  mem : ∀ k ∈ ks, k ∈ bins
  sorted : ks.Pairwise fun k k' => key k' ≤ key k
  strongest : ∀ k ∈ ks, ∀ k' ∈ bins, k' ∉ ks → key k' ≤ key k

/-- A strongest bin put before a selection from the others. -/
theorem Selection.cons {key : Nat → Int} {bins ks : List Nat} {n k : Nat} (hnd : bins.Nodup) (hk : k ∈ bins)
    (hmax : ∀ k' ∈ bins, key k' ≤ key k) (h : Selection key (bins.erase k) n ks) :
    Selection key bins (n + 1) (k :: ks) where
  length := by
    have hpos := List.length_pos_of_mem hk
    rw [List.length_cons, h.length, List.length_erase_of_mem hk]
    omega
  nodup := List.nodup_cons.mpr ⟨fun hmem => hnd.not_mem_erase (h.mem k hmem), h.nodup⟩
  mem := List.forall_mem_cons.mpr ⟨hk, fun k' hk' => List.mem_of_mem_erase (h.mem k' hk')⟩
  sorted := List.pairwise_cons.mpr ⟨fun k' hk' => hmax k' (List.mem_of_mem_erase (h.mem k' hk')), h.sorted⟩
  strongest := by
    refine List.forall_mem_cons.mpr ⟨fun k' hk' _ => hmax k' hk', fun k₁ hk₁ k' hk' hout => ?_⟩
    obtain ⟨hne, hout⟩ := not_or.mp (mt List.mem_cons.mpr hout)
    exact h.strongest k₁ hk₁ k' ((List.mem_erase_of_ne hne).mpr hk') hout

/-- The selection is of the strongest bins, then padding, for every draw of the ties. -/
theorem exists_selection (tie : Nat → Nat) {key : Nat → Int} (hkey : ∀ k, -1 ≤ key k) (n j : Nat) {bins : List Nat}
    (hnd : bins.Nodup) :
    ∃ ks, Selection key bins n ks ∧
      selectBins tie n j (withKeys key bins) = ks.map some ++ List.replicate (n - ks.length) none := by
  induction n generalizing j bins with
  | zero => exact ⟨[], ⟨by simp, .nil, by simp, .nil, by simp⟩, rfl⟩
  | succ n ih =>
    by_cases hne : bins = []
    · subst hne
      exact ⟨[], ⟨rfl, .nil, by simp, .nil, by simp⟩, selectBins_nil tie (n + 1) j⟩
    · obtain ⟨hmem, hmax⟩ := chosenBin_spec hkey (tie j) hne
      obtain ⟨ks, hks, heq⟩ := ih (j + 1) (hnd.erase (chosenBin key (tie j) bins))
      refine ⟨_, hks.cons hnd hmem hmax, ?_⟩
      rw [selectBins_withKeys tie n j key hne hnd, heq, List.length_cons, Nat.add_sub_add_right]
      rfl

/-- The candidates are the bins `1 .. L/2-1` (43_anticogging.md R343). -/
theorem candidates_eq_withKeys (l : Nat) (x : List Cplx) :
    candidates l x = withKeys (fun k => harmonicKey (x.getD k (0#32, 0#32))) (List.range' 1 (l / 2 - 1)) := by
  rw [candidates, withKeys, List.range'_eq_map_range, List.map_map]
  exact List.map_congr_left fun k _ => by rw [Function.comp_apply, Nat.add_comm]; rfl

/-- Settles O53: the selection of `exists_selection`, from the candidates of R343. -/
theorem selectionKeepsTheStrongestBins : Obligations.SelectionKeepsTheStrongestBins := by
  intro tie l x hl key
  have hbin (k : Nat) : k ∈ List.range' 1 (l / 2 - 1) ↔ 1 ≤ k ∧ k ≤ l / 2 - 1 := by
    rw [List.mem_range'_1]; omega
  obtain ⟨ks, hks, heq⟩ := exists_selection tie (key := key) (fun _ => neg_one_le_harmonicKey _) Config.nHarm 0
    (List.nodup_range' (s := 1) (n := l / 2 - 1))
  refine ⟨ks, by simpa using hks.length, hks.nodup, fun k hk => (hbin k).mp (hks.mem k hk), hks.sorted,
    fun k hk k' h1 h2 hout => hks.strongest k hk k' ((hbin k').mpr ⟨h1, h2⟩) hout, ?_⟩
  rw [selectHarmonics, candidates_eq_withKeys, heq, List.map_append, List.map_map, List.map_replicate]
  rfl

end Sys2Proof.Proofs
end

section
/-!
PROOFS. O52 and O54: `ACOG_COMPRESS` and `ACOG_DECOMPRESS` (43_anticogging.md R342, R346 to R348, R353 to R357).
-/

namespace Sys2Proof.Proofs
open Sys2Proof Sys2Proof.Machine

/-! ### The supported lengths (43_anticogging.md R342) -/

/-- The powers of two from `FFT_MIN` to `MAP_DEPTH`. -/
theorem supportedSize_iff (l : Nat) :
    supportedSize l = true ↔ l ∈ [4, 8, 16, 32, 64, 128, 256, 512, 1024, 2048, 4096, 8192] := by
  constructor
  · intro h
    simp only [supportedSize, Bool.and_eq_true, decide_eq_true_eq] at h
    obtain ⟨⟨hmin, hmax⟩, hpow⟩ := h
    replace hmin : 4 ≤ l := hmin
    replace hmax : l ≤ 8192 := hmax
    have hlow : 2 ≤ Nat.log2 l := (Nat.le_log2 (by omega)).mpr hmin
    have hhigh : Nat.log2 l < 14 := (Nat.log2_lt (by omega)).mpr (by omega)
    generalize Nat.log2 l = k at hpow hlow hhigh
    subst hpow
    interval_cases k <;> decide
  · intro h
    fin_cases h <;> decide

theorem not_supportedSize_iff (l : Nat) :
    supportedSize l = false ↔ l ∉ [4, 8, 16, 32, 64, 128, 256, 512, 1024, 2048, 4096, 8192] := by
  rw [← supportedSize_iff, Bool.not_eq_true]

/-! ### The two commands as one update each -/

section Commands
variable {s : State} {a : Axis} {l : Nat}

/-- `ACOG_COMPRESS` at a supported length (43_anticogging.md R346, R353). -/
theorem exec_acogCompress_of_supported (hc : s.cprOf a = l) (h : supportedSize l = true) :
    exec (.acogCompress a) s = .next (acogDone s a
      { (s.axis a).acog with scratch := overwriteScratch (s.axis a).acog.scratch (mapSignal s a l) }
      (Memory.setHarmonics s.mem (harmAddr a 0)
        (selectHarmonics (Config.tieRaw s.draws) l (fftFwd l (mapSignal s a l))))) := by
  subst hc
  exact (execAcogCompress_of_supported h).trans (by cases a <;> rfl)

/-- `ACOG_DECOMPRESS` at a supported length (43_anticogging.md R347, R356). -/
theorem exec_acogDecompress_of_supported (hc : s.cprOf a = l) (h : supportedSize l = true) :
    exec (.acogDecompress a) s = .next (acogDone s a
      { (s.axis a).acog with
        mapValid := true
        scratch := overwriteScratch (s.axis a).acog.scratch (harmSignal s a l) }
      (Memory.setWords s.mem (mapAddr a 0) (doubleReal s.nanDraw 0 (fftInv l (harmSignal s a l))))) := by
  subst hc
  exact (execAcogDecompress_of_supported h).trans (by cases a <;> rfl)

end Commands

/-! ### The harmonic table (43_anticogging.md R346) -/

/-- A tuple is its three words. -/
theorem harmonic_eq_of_word {h h' : Harmonic} (h0 : h.index = h'.word 0) (h1 : h.re = h'.word 1) (h2 : h.im = h'.word 2) :
    h = h' := by
  cases h; cases h0; cases h1; cases h2; rfl

theorem harmEntry_acogDone_setHarmonics (s : State) (a : Axis) (r : AcogRegs) {hs : List Harmonic} {j : Nat}
    (hj : j < hs.length) :
    (acogDone s a r (Memory.setHarmonics s.mem (harmAddr a 0) hs)).harmEntry a j = hs[j] := by
  have hword (f : Nat) (hf : f < 3) :
      (acogDone s a r (Memory.setHarmonics s.mem (harmAddr a 0) hs)).wordAt (harmAddr a j + 4 * f) = hs[j].word f := by
    have h := State.wordAt_setHarmonics s (harmAddr a 0) j f hs hj hf
    rwa [List.getD_eq_getElem _ _ hj] at h
  exact harmonic_eq_of_word (hword 0 (by omega)) (hword 1 (by omega)) (hword 2 (by omega))

/-- Settles O52: at a supported length the command is one `acogDone`, whose storage differs in the table's fields only. -/
theorem compressWritesOnlyTheHarmonicTable : Obligations.CompressWritesOnlyTheHarmonicTable := by
  intro s a l
  by_cases hl : l ∈ [4, 8, 16, 32, 64, 128, 256, 512, 1024, 2048, 4096, 8192]
  · refine ⟨_, exec_acogCompress_of_supported (l := l) rfl ((supportedSize_iff l).mpr hl), ?_⟩
    have hlen := length_selectHarmonics (Config.tieRaw s.draws) l (fftFwd l (mapSignal s a l))
    rw [if_pos hl, axis_acogDone]
    refine ⟨onlyAxis_acogDone .., rfl, rfl, rfl, rfl, rfl, rfl, rfl, ?_, fun n hn => ?_⟩
    · refine List.ext_getElem ((List.length_map _).trans (List.length_range.trans hlen.symm)) fun j _ _ => ?_
      rw [List.getElem_map, List.getElem_range]
      exact harmEntry_acogDone_setHarmonics s a _ _
    · rw [byteAt_acogDone]
      refine State.byteAt_setHarmonics s _ _ _ fun ⟨h0, h1, h2⟩ => ?_
      have hj : (n - harmAddr a 0) / 16 < 8 := by rw [hlen] at h1; simp only [Config.nHarm] at h1; omega
      exact hn ((n - harmAddr a 0) / 16) hj (by unfold harmAddr at *; omega)
  · exact ⟨_, (execAcog_of_unsupported ((not_supportedSize_iff l).mpr hl)).1, by
      rw [if_neg hl]; exact onlyStatus_setStatus s a .eSize⟩

/-! ### The spectrum (43_anticogging.md R347, R348) -/

theorem harmonicBin_eq_some_iff {index : W32} {l k : Nat} :
    harmonicBin index l = some k ↔ k < l / 2 ∧ index.toInt = k := by
  rw [harmonicBin, Option.ite_none_right_eq_some, Option.some_inj]
  omega

/-- One entry stored, read at bin `k`. -/
theorem getElem?_putHarmonic {l k : Nat} {z : List Cplx} (hk : k < z.length) (h : Harmonic) :
    (putHarmonic l z h)[k]? = if k < l / 2 ∧ h.index.toInt = k then some (h.re, h.im) else z[k]? := by
  simp only [← harmonicBin_eq_some_iff]
  unfold putHarmonic
  split
  next k' heq =>
    simp only [heq, Option.some_inj]
    split_ifs with hkk
    · subst hkk; exact List.getElem?_set_self hk
    · exact List.getElem?_set_ne hkk
  next heq => simp [heq]

theorem length_putHarmonic (l : Nat) (z : List Cplx) (h : Harmonic) : (putHarmonic l z h).length = z.length := by
  unfold putHarmonic
  split <;> simp

/-- Entries stored one after another: the last that names the bin is the one read there. -/
theorem getElem?_foldl_putHarmonic {l k : Nat} (hs : List Harmonic) {z : List Cplx} (hk : k < z.length) :
    (hs.foldl (putHarmonic l) z)[k]? =
      (hs.reverse.find? fun h : Harmonic => decide (k < l / 2 ∧ h.index.toInt = k)).elim z[k]? fun h => some (h.re, h.im) := by
  induction hs generalizing z with
  | nil => rfl
  | cons h hs ih =>
    rw [List.foldl_cons, ih (by rwa [length_putHarmonic]), getElem?_putHarmonic hk, List.reverse_cons, List.find?_append]
    cases hs.reverse.find? fun h : Harmonic => decide (k < l / 2 ∧ h.index.toInt = k) with
    | some h' => rfl
    | none => by_cases hfit : k < l / 2 ∧ h.index.toInt = k <;> simp [hfit]

/-- Bin `k` of the spectrum: the last entry that fits and names it, else zero. -/
theorem getElem?_harmSignal (s : State) (a : Axis) {l k : Nat} (hk : k < l) :
    (harmSignal s a l)[k]? = some (((List.range 8).reverse.find? fun j =>
      decide (k < l / 2 ∧ (s.harmEntry a j).index.toInt = k)).elim (0#32, 0#32)
        fun j => ((s.harmEntry a j).re, (s.harmEntry a j).im)) := by
  rw [harmSignal, scatter, getElem?_foldl_putHarmonic _ (by simpa using hk), harmTable, ← List.map_reverse, List.find?_map,
    List.getElem?_replicate_of_lt hk]
  simp only [Function.comp_def]
  cases (List.range 8).reverse.find? fun j => decide (k < l / 2 ∧ (s.harmEntry a j).index.toInt = k) <;> rfl

/-! ### The map (43_anticogging.md R347) -/

theorem getElem_doubleReal (nan : Nat → F32) (m n : Nat) (ys : List Cplx) (hn : n < ys.length) :
    (doubleReal nan m ys)[n]'(by rwa [length_doubleReal]) = fmul (nan (m + n)) fTwo ys[n].1 := by
  induction ys generalizing m n with
  | nil => simp at hn
  | cons y ys ih =>
    cases n with
    | zero => rfl
    | succ n =>
      simp only [doubleReal, List.getElem_cons_succ, ih (m + 1) n (by simpa using hn)]
      rw [Nat.add_assoc, Nat.add_comm 1]

theorem mapEntry_acogDone_setWords (s : State) (a : Axis) (r : AcogRegs) {vs : List W32} {n : Nat} (hn : n < vs.length) :
    (acogDone s a r (Memory.setWords s.mem (mapAddr a 0) vs)).mapEntry a n = vs[n] := by
  have h := State.wordAt_setWords s (mapAddr a 0) n vs hn
  rwa [List.getD_eq_getElem _ _ hn] at h

/-- Entry `n` of the map `ACOG_DECOMPRESS` writes. -/
theorem mapEntry_acogDone_fftInv (s : State) (a : Axis) (r : AcogRegs) {l n : Nat} (hn : n < l) :
    (acogDone s a r (Memory.setWords s.mem (mapAddr a 0)
      (doubleReal s.nanDraw 0 (fftInv l (harmSignal s a l))))).mapEntry a n =
      fmul (s.nanDraw n) fTwo ((fftInv l (harmSignal s a l)).getD n (0#32, 0#32)).1 := by
  have hfft : n < (fftInv l (harmSignal s a l)).length := hn.trans_eq (length_fftInv (harmSignal_length s a l)).symm
  rw [mapEntry_acogDone_setWords s a r (by rwa [length_doubleReal]), getElem_doubleReal _ _ _ _ hfft, Nat.zero_add,
    List.getD_eq_getElem _ _ hfft]

/-- Settles O54: at a supported length the command is one `acogDone`, its spectrum the filled scratch of `getElem?_harmSignal`. -/
theorem decompressRebuildsTheMap : Obligations.DecompressRebuildsTheMap := by
  intro s a l
  by_cases hl : l ∈ [4, 8, 16, 32, 64, 128, 256, 512, 1024, 2048, 4096, 8192]
  · refine ⟨_, exec_acogDecompress_of_supported (l := l) rfl ((supportedSize_iff l).mpr hl), ?_⟩
    have hlen := (length_doubleReal s.nanDraw 0 _).trans (length_fftInv (harmSignal_length s a l))
    rw [if_pos hl, axis_acogDone]
    refine ⟨onlyAxis_acogDone .., rfl, rfl, rfl, rfl, rfl, rfl, rfl,
      ⟨harmSignal s a l, harmSignal_length s a l, fun k hk => getElem?_harmSignal s a hk,
        fun n hn => mapEntry_acogDone_fftInv s a _ hn⟩, fun n hn => ?_⟩
    rw [byteAt_acogDone]
    refine State.byteAt_setWords s _ _ _ fun h => hn ?_
    rw [hlen] at h
    exact h
  · exact ⟨_, (execAcog_of_unsupported ((not_supportedSize_iff l).mpr hl)).2, by
      rw [if_neg hl]; exact onlyStatus_setStatus s a .eSize⟩

end Sys2Proof.Proofs
end

section
/-!
PROOFS. O55: the round trip of a map of small integers at `CPR = 4` (43_anticogging.md R358, R359).
-/

namespace Sys2Proof.Proofs
open Sys2Proof Sys2Proof.Machine

/-! ### Numbers of units the format holds (00_scope.md R16) -/

theorem natAbs_fInt (x : F32) : (fInt x).natAbs = fUnits x := by
  cases h : fSign x <;> simp [fInt, h]

/-- A number of units is representable when a finite field has its magnitude. -/
theorem representable_of_magValue {v : Int} {k : Nat} (hk : k < 0x7F800000) (h : magValue k = v.natAbs) :
    representable v = true := by
  have hval : fOfUnits v = fPack (decide (v < 0)) k := by
    rw [fOfUnits, ← h, ← Nat.mul_one (magValue k), roundMag_magValue one_pos hk.le]
  have hmag : fMag (fOfUnits v) = k := by rw [hval, fMag_fPack (by omega)]
  have hsign : fSign (fOfUnits v) = decide (v < 0) := by rw [hval, fSign_fPack (by omega)]
  have hint : fInt (fOfUnits v) = v := by
    rw [fInt, hsign, fUnits_eq_magValue, hmag, h]
    simp only [decide_eq_true_eq]
    omega
  rw [representable, decide_eq_true hint, isFinite, hmag, decide_eq_true hk]
  rfl

/-- Only a finite field has the magnitude of a representable number. -/
theorem exists_magValue_of_representable {v : Int} (h : representable v = true) :
    ∃ k < 0x7F800000, magValue k = v.natAbs := by
  obtain ⟨hfin, hval⟩ := Bool.and_eq_true_iff.mp h
  refine ⟨fMag (fOfUnits v), of_decide_eq_true hfin, ?_⟩
  rw [← fUnits_eq_magValue, ← natAbs_fInt, of_decide_eq_true hval]

theorem isFinite_of_representable {x : F32} (h : representable (fInt x) = true) : isFinite x = true := by
  obtain ⟨k, hk, hval⟩ := exists_magValue_of_representable h
  rw [natAbs_fInt, fUnits_eq_magValue] at hval
  rw [isFinite, ← magValue_strictMono.injective hval]
  exact decide_eq_true hk

/-- `2^147` times an integer below `2^24` is representable: a quarter of such an integer, in units. -/
theorem representable_of_dvd {v : Int} (h : 2 ^ 147 ∣ v ∧ -2 ^ 171 < v ∧ v < 2 ^ 171) : representable v = true := by
  obtain ⟨⟨n, rfl⟩, hlow, hhigh⟩ := h
  rcases eq_or_ne n 0 with rfl | hn
  · exact representable_of_magValue (k := 0) (by decide) rfl
  obtain ⟨k, hk, hval⟩ := exists_magValue_eq_natCast (n := n.natAbs) (by omega)
  obtain ⟨sh, t, rfl, ht, hsh⟩ := exists_exponent_significand k
  rw [magValue_mul_add ht.le hsh] at hval
  have hexp : 2 ≤ sh := by
    by_contra hlt
    interval_cases sh <;> omega
  obtain ⟨e, rfl⟩ := Nat.exists_eq_add_of_le' hexp
  have htop : 2 ^ 23 ≤ t := hsh.resolve_left (Nat.succ_ne_zero _)
  have hfield : e * 0x800000 + t ≤ (e + 2) * 0x800000 + t := by gcongr; exact Nat.le_add_right e 2
  refine representable_of_magValue (hfield.trans_lt hk) ?_
  rw [magValue_mul_add ht.le (.inr htop)]
  rw [pow_add, ← Nat.mul_assoc] at hval
  omega

/-- Twice a value is exact where the format holds it (00_scope.md R17). -/
theorem fmul_fTwo {x : F32} (hx : isFinite x = true) (h : representable (2 * fInt x) = true) (nan : F32) :
    isFinite (fmul nan fTwo x) = true ∧ fInt (fmul nan fTwo x) = 2 * fInt x := by
  obtain ⟨k, hk, hval⟩ := exists_magValue_of_representable h
  have htwo : fUnits fTwo = 2 ^ 150 := by
    have hmag : fMag fTwo = 0x40000000 := by decide
    rw [fUnits_eq_magValue, hmag]; norm_num [magValue]
  have hunits : fUnits fTwo * fUnits x = magValue k * 2 ^ 149 := by
    rw [hval, Int.natAbs_mul, natAbs_fInt, htwo]; ring
  have hmul : fmul nan fTwo x = fPack (fSign x) k := by
    rw [fmul_of_isFinite isFinite_fTwo hx, hunits, roundMag_magValue (by positivity) hk.le]
    cases fSign x <;> rfl
  have hmag : fMag (fmul nan fTwo x) = k := by rw [hmul, fMag_fPack (by omega)]
  have hsign : fSign (fmul nan fTwo x) = fSign x := by rw [hmul, fSign_fPack (by omega)]
  refine ⟨by rw [isFinite, hmag]; exact decide_eq_true hk, ?_⟩
  rw [Int.natAbs_mul, natAbs_fInt] at hval
  rw [fInt, fInt, hsign, fUnits_eq_magValue, hmag, hval]
  split_ifs <;> simp

/-! ### The two transforms of the round trip (00_scope.md R28) -/

/-- `i2f` of a small integer is exact (00_scope.md R22). -/
theorem i2f_of_small {n : Int} (h : |n| ≤ 1000000) : isFinite (i2f n) = true ∧ fInt (i2f n) = n * 2 ^ 149 := by
  rw [abs_le] at h
  obtain ⟨hfin, hval⟩ := Bool.and_eq_true_iff.mp (representable_of_dvd (v := n * 2 ^ 149) (by omega))
  exact ⟨hfin, of_decide_eq_true hval⟩

/-- A map of four integers as `ACOG_COMPRESS` reads it (43_anticogging.md R346). -/
def integerSignal (m : Fin 4 → Int) : List Cplx :=
  [(i2f (m 0), fZero), (i2f (m 1), fZero), (i2f (m 2), fZero), (i2f (m 3), fZero)]

/-- Bin 1 of four small integers is `(m0 - m2) + (m3 - m1)i`, exactly. -/
theorem cInt_fftFwd_bin_one {m : Fin 4 → Int} (hm : ∀ n, |m n| ≤ 1000000) :
    cInt ((fftFwd 4 (integerSignal m)).getD 1 (0#32, 0#32)) =
      ((m 0 - m 2) * 2 ^ 149, (m 3 - m 1) * 2 ^ 149) := by
  have hbound (n : Fin 4) : -1000000 ≤ m n ∧ m n ≤ 1000000 := abs_le.mp (hm n)
  have h0 := hbound 0
  have h1 := hbound 1
  have h2 := hbound 2
  have h3 := hbound 3
  obtain ⟨-, -, hexact⟩ := transformsHaveTheirProperties
  obtain ⟨hfwd, -⟩ := hexact (i2f (m 0), fZero) (i2f (m 1), fZero) (i2f (m 2), fZero) (i2f (m 3), fZero)
    (by simp [(i2f_of_small (hm _)).1]) (by
      simp only [(i2f_of_small (hm _)).2, fInt_fZero, List.mem_cons, List.not_mem_nil, or_false]
      intro v hv
      exact representable_of_dvd (by omega))
  have hmap := hfwd (by
    simp only [(i2f_of_small (hm _)).2, fInt_fZero, List.mem_cons, List.not_mem_nil, or_false]
    intro p hp v hv
    simp only [Prod.ext_iff] at hp
    exact representable_of_dvd (by omega))
  rw [← List.getD_map _ _ cInt]
  refine (congrArg (fun ys => ys.getD 1 (cInt (0#32, 0#32))) hmap).trans ?_
  simp only [(i2f_of_small (hm _)).2, fInt_fZero, List.getD_cons_succ, List.getD_cons_zero, Prod.ext_iff]
  omega

/-- The real parts of the inverse transform of a spectrum with bin 1 only: a quarter of `p`, `-q`, `-p`, `q`. -/
theorem fInt_fftInv_bin_one {x : Cplx} {p q : Int} (hp : |p| ≤ 2000000) (hq : |q| ≤ 2000000)
    (hx : cInt x = (p * 2 ^ 149, q * 2 ^ 149)) (n : Nat) :
    fInt ((fftInv 4 [(0#32, 0#32), x, (0#32, 0#32), (0#32, 0#32)]).getD n (0#32, 0#32)).1 =
      [p * 2 ^ 147, -q * 2 ^ 147, -p * 2 ^ 147, q * 2 ^ 147].getD n 0 := by
  rw [abs_le] at hp hq
  obtain ⟨hre, him⟩ := Prod.ext_iff.mp hx
  simp only [cInt] at hre him
  have hzero : fInt 0#32 = 0 := fInt_fZero
  have hfin : isFinite x.1 = true ∧ isFinite x.2 = true :=
    ⟨isFinite_of_representable (hre ▸ representable_of_dvd (by omega)),
      isFinite_of_representable (him ▸ representable_of_dvd (by omega))⟩
  obtain ⟨-, -, hexact⟩ := transformsHaveTheirProperties
  obtain ⟨-, hinv⟩ := hexact (0#32, 0#32) x (0#32, 0#32) (0#32, 0#32)
    (by simp [hfin, show isFinite 0#32 = true from isFinite_fZero]) (by
      simp only [hre, him, hzero, List.mem_cons, List.not_mem_nil, or_false]
      intro v hv
      exact representable_of_dvd (by omega))
  have hmap := congrArg (List.map Prod.fst) (hinv (by
    simp only [hre, him, hzero, List.mem_cons, List.not_mem_nil, or_false]
    intro r hr
    simp only [Prod.ext_iff] at hr
    exact ⟨fun v hv => representable_of_dvd (by omega), by omega, by omega,
      fun v hv => representable_of_dvd (by omega)⟩))
  have hreal : (fftInv 4 [(0#32, 0#32), x, (0#32, 0#32), (0#32, 0#32)]).map (fun z => fInt z.1) =
      [p * 2 ^ 147, -q * 2 ^ 147, -p * 2 ^ 147, q * 2 ^ 147] := by
    simp only [List.map_map, Function.comp_def, hre, him, hzero, List.map_cons, List.map_nil] at hmap
    rw [hmap]
    simp only [List.cons.injEq, and_true]
    omega
  rw [← hreal]
  exact (List.getD_map _ _ fun z : Cplx => fInt z.1).symm

/-! ### The round trip -/

/-- At `L = 4` bin 1 is the only candidate (43_anticogging.md R343). -/
theorem selectHarmonics_four (tie : Nat → Nat) (x : List Cplx) :
    selectHarmonics tie 4 x =
      ⟨1#32, (x.getD 1 (0#32, 0#32)).1, (x.getD 1 (0#32, 0#32)).2⟩ :: List.replicate 7 ⟨0#32, 0#32, 0#32⟩ := by
  obtain ⟨ks, hlen, -, hmem, -, -, heq⟩ := selectionKeepsTheStrongestBins tie 4 x le_rfl
  obtain ⟨k, rfl⟩ := List.length_eq_one_iff.mp hlen
  obtain rfl : k = 1 := by have := hmem k List.mem_cons_self; omega
  exact heq

/-- Bin 1 stored, and the padding at bin 0. -/
theorem scatter_four (x : Cplx) :
    scatter 4 (⟨1#32, x.1, x.2⟩ :: List.replicate 7 ⟨0#32, 0#32, 0#32⟩) =
      [(0#32, 0#32), x, (0#32, 0#32), (0#32, 0#32)] := rfl

/-- Compression of four integers leaves bin 1 as the spectrum `ACOG_DECOMPRESS` reads. -/
theorem acogCompress_four {s : State} {a : Axis} {m : Fin 4 → Int} (hcpr : (s.axis a).pll.cpr = 4#32)
    (hmap : ∀ n : Fin 4, s.mapEntry a n.val = i2f (m n)) :
    ∃ t, exec (.acogCompress a) s = .next t ∧ t.cprOf a = 4 ∧ harmSignal t a 4 =
      [(0#32, 0#32), (fftFwd 4 (integerSignal m)).getD 1 (0#32, 0#32), (0#32, 0#32), (0#32, 0#32)] := by
  have hl : (s.axis a).pll.cpr.toNat = 4 := by rw [hcpr]; rfl
  obtain ⟨t, ht, h⟩ := compressWritesOnlyTheHarmonicTable s a
  rw [hl, if_pos (by decide)] at h
  obtain ⟨-, -, -, -, hpll, -, -, -, htable, -⟩ := h
  have hsignal : (List.range 4).map (fun n => (s.mapEntry a n, 0#32)) = integerSignal m := by
    rw [integerSignal, ← hmap 0, ← hmap 1, ← hmap 2, ← hmap 3]; rfl
  rw [hsignal, selectHarmonics_four] at htable
  exact ⟨t, ht, by rw [State.cprOf, hpll, hl], (congrArg (scatter 4) htable).trans (scatter_four _)⟩

/-- Settles O55: bin 1 is exact, its inverse transform too, and so is twice the real part, which is the map less its mean and
alternating parts. -/
theorem smallRoundTripIsExact : Obligations.SmallRoundTripIsExact := by
  intro s a m hcpr hm hmap
  obtain ⟨t, ht, hlt, hz⟩ := acogCompress_four hcpr hmap
  refine ⟨t, _, ht, exec_acogDecompress_of_supported hlt (by decide), by rw [axis_acogDone], fun n => ?_⟩
  have hbound (n : Fin 4) : -1000000 ≤ m n ∧ m n ≤ 1000000 := abs_le.mp (hm n)
  have h0 := hbound 0
  have h1 := hbound 1
  have h2 := hbound 2
  have h3 := hbound 3
  have hinv := fInt_fftInv_bin_one (abs_le.mpr (by omega)) (abs_le.mpr (by omega)) (cInt_fftFwd_bin_one hm) n
  rw [mapEntry_acogDone_fftInv t a _ n.isLt, hz]
  obtain ⟨c, hy, hc, hvalue⟩ : ∃ c, [(m 0 - m 2) * 2 ^ 147, -(m 3 - m 1) * 2 ^ 147, -(m 0 - m 2) * 2 ^ 147,
        (m 3 - m 1) * 2 ^ 147].getD n.val 0 = c * 2 ^ 147 ∧ (-2000000 ≤ c ∧ c ≤ 2000000) ∧
      2 * c = 4 * m n - (m 0 + m 1 + m 2 + m 3) - (-1) ^ n.val * (m 0 - m 1 + m 2 - m 3) := by
    fin_cases n <;> refine ⟨_, rfl, by omega, ?_⟩ <;> simp <;> omega
  rw [hy] at hinv
  obtain ⟨hfin, htwice⟩ := fmul_fTwo
    (isFinite_of_representable (by rw [hinv]; exact representable_of_dvd (by omega)))
    (by rw [hinv]; exact representable_of_dvd (by omega)) (t.nanDraw n)
  refine ⟨hfin, ?_⟩
  rw [htwice, hinv, ← hvalue]
  ring

end Sys2Proof.Proofs
end

section
/-!
PROOFS. O23, O24 and O27: a host write to `CTRL`, and that nothing else arms an axis (44_system.md R383, R384,
60_exceptions.md R407).
-/

namespace Sys2Proof.Proofs
open Sys2Proof Sys2Proof.Machine

/-! ### A host write to `CTRL` -/

/-- The control registers after a host write of `v` to `CTRL`: `ENABLE` falls with bit 0 clear, and rises with bit 0 set
only while no error is recorded (44_system.md R383). -/
def ctlAfterWrite (v : W32) (r : CtlRegs) : CtlRegs :=
  { r with phaseSrc := v.getLsbD 1, enable := v.getLsbD 0 && (r.enable || decide (r.error = 0#10)) }

theorem writeCtrl_of_clear {v : W32} (hv : v.getLsbD 0 = false) (a : Axis) (s : State) :
    writeCtrl a v s = disableAxis a (s.setCtl a { (s.axis a).ctl with phaseSrc := v.getLsbD 1 }) := by
  rw [writeCtrl, hv]; rfl

/-- With bit 0 set a write to `CTRL` stores the control registers and changes nothing else. -/
theorem writeCtrl_of_set {v : W32} (hv : v.getLsbD 0 = true) (a : Axis) (s : State) :
    writeCtrl a v s = s.setCtl a (ctlAfterWrite v (s.axis a).ctl) := by
  rw [writeCtrl, if_pos hv, ctlAfterWrite, hv, Bool.true_and]
  split
  next herr => rw [State.setCtl_setCtl, State.setCtl_axis_self, decide_eq_true herr, Bool.or_true]
  next herr => rw [decide_eq_false herr, Bool.or_false]

/-- What a write to `CTRL` does: the control registers of its axis, and `BRK` (44_system.md R383). -/
theorem writeCtrl_eq (a : Axis) (v : W32) (s : State) :
    writeCtrl a v s = (s.setCtl a (ctlAfterWrite v (s.axis a).ctl)).setBrk (writeCtrl a v s).brk := by
  cases hv : v.getLsbD 0 with
  | true => rw [writeCtrl_of_set hv]; rfl
  | false =>
    rw [writeCtrl_of_clear hv, ctlAfterWrite, hv]
    conv_lhs => rw [disableAxis_eq, State.setCtl_setCtl, State.setCtl_axis_self]
    rfl

/-- `BRK` after a write to `CTRL`: updated where the write disarms an armed axis (44_system.md R384). -/
theorem writeCtrl_brk (a : Axis) (v : W32) (s : State) :
    (writeCtrl a v s).brk =
      if v.getLsbD 0 = true ∨ (s.axis a).ctl.enable = false then s.brk else brkAfterDisarm a s (writeCtrl a v s) := by
  cases hv : v.getLsbD 0 with
  | true => rw [writeCtrl_of_set hv, if_pos (.inl rfl)]; rfl
  | false =>
    have hen : (s.setCtl a { (s.axis a).ctl with phaseSrc := v.getLsbD 1 }).enabled = s.enabled := enabled_setCtl rfl
    rw [writeCtrl_of_clear hv]
    cases ha : (s.axis a).ctl.enable with
    | false => rw [disableAxis_brk_of_disabled (hen ▸ ha), if_pos (.inr rfl)]; rfl
    | true =>
      rw [disableAxis_brk_eq_brkAfterDisarm (hen ▸ ha), if_neg (by decide)]
      exact brkAfterDisarm_congr (State.setCtl_axis_other s a _) rfl _

/-- The step of a host write to `CTRL`, whatever it writes. -/
theorem step_writeCtrl {s : State} {a : Axis} {k : BitVec 20} {v : W32} {ds : List Delivery}
    (hp : s.pending = .write k 32 v :: ds) (hk : k.toNat = axisAddr a 0x08) :
    ∃ t, step s = .next t ∧ State.OnlyAxis a (s.accept ds) t ∧ s.SameBytes t ∧
      t.axis a = { s.axis a with ctl := ctlAfterWrite v (s.axis a).ctl } ∧
      t.brk = if v.getLsbD 0 = true ∨ (s.axis a).ctl.enable = false then s.brk else brkAfterDisarm a s t := by
  have ht : step s = .next (writeCtrl a v (s.accept ds)) := step_writeAxis hp hk (r := .ctrl) rfl
  have hbrk := writeCtrl_brk a v (s.accept ds)
  have heq := writeCtrl_eq a v (s.accept ds)
  generalize writeCtrl a v (s.accept ds) = t at ht hbrk heq
  refine ⟨t, ht, ?_, ?_, ?_, hbrk⟩
  · rw [heq]; exact onlyAxis_setAxis_setBrk _ a _ _
  · intro n; rw [heq]; rfl
  · rw [heq, State.setBrk_axis, State.setCtl_axis_self]; rfl

/-- Settles O23: bit 0 clear on an armed axis is the case of `step_writeCtrl` that updates `BRK`. -/
theorem disarmingRunsTheBrakeAggregation : Obligations.DisarmingRunsTheBrakeAggregation := by
  intro s a k v ds hp hk hen hv
  obtain ⟨t, ht, honly, hbytes, hax, hbrk⟩ := step_writeCtrl hp hk
  refine ⟨t, ht, honly, hbytes, ?_, ?_⟩
  · rw [hax, ctlAfterWrite, hv, Bool.false_and]
  · rw [hbrk, if_neg (by rw [hv, hen]; decide)]; rfl

/-- Settles O24: every other write leaves `BRK` alone, and keeps an armed axis armed. -/
theorem enableRisesOnlyWithNoErrorRecorded : Obligations.EnableRisesOnlyWithNoErrorRecorded := by
  intro s a k v ds hp hk hcase
  obtain ⟨t, ht, honly, hbytes, hax, hbrk⟩ := step_writeCtrl hp hk
  refine ⟨t, ht, honly, ?_, hbytes, ?_⟩
  · rw [hbrk, if_pos hcase.symm]
  · rw [hax, ctlAfterWrite]
    rcases hcase with hen | hv
    · rw [hen, Bool.false_or, Bool.false_or]
    · rw [hv, Bool.true_and, Bool.true_and]

/-! ### Nothing else arms an axis -/

/-- New control registers that leave a disarmed axis disarmed. -/
theorem disabled_setCtl {s : State} {a b : Axis} {c : CtlRegs} (hc : s.enabled a = false → c.enable = false)
    (h : s.enabled b = false) : (s.setCtl a c).enabled b = false := by
  rw [State.enabled_eq, State.setCtl_axis]
  split
  next hb => exact hc (hb ▸ h)
  next => exact h

/-- No elementary update arms an axis (60_exceptions.md R407). -/
theorem Update.keeps_disabled {s t : State} (hu : Update s t) {a : Axis} (h : s.enabled a = false) :
    t.enabled a = false := by
  cases hu with
  | seqDone u =>
    obtain ⟨b, r, hdone⟩ := completeIfDone_markDone u s
    rw [hdone, State.setSeq_enabled, State.setSamp_enabled]
    exact h
  | fault e b => rw [faultAxis_enabled, h, ite_self]
  | report b hb => rw [brkReport_eq]; exact h
  | _ => simpa using h

/-- `ERROR_SET` arms no axis (10_state.md R74). -/
theorem disabled_writeErrorSet {s : State} {a b : Axis} {v : W32} (h : s.enabled b = false) :
    (writeErrorSet a v s).enabled b = false := by
  rw [writeErrorSet_eq]
  exact disabled_setCtl (fun ha => Bool.and_eq_false_imp.mpr fun he => by cases ha.symm.trans he) h

/-- A write to `CTRL` that arms an axis is to that axis, with bit 0 set and no error recorded (44_system.md R383). -/
theorem armed_of_writeCtrl {s : State} {a b : Axis} {v : W32} (h : s.enabled b = false)
    (harm : (writeCtrl a v s).enabled b = true) : b = a ∧ v.getLsbD 0 = true ∧ (s.axis b).ctl.error = 0#10 := by
  rw [writeCtrl_eq, State.setBrk_enabled, State.enabled_eq, State.setCtl_axis] at harm
  split at harm
  next hb =>
    subst hb
    rw [ctlAfterWrite, ← State.enabled_eq, h] at harm
    simpa using harm
  next => cases h.symm.trans harm

/-- Settles O27: of what a step can do, only a write to `CTRL` arms an axis. -/
theorem onlyAHostWriteArmsAnAxis : Obligations.OnlyAHostWriteArmsAnAxis := by
  intro s t a h hs harm
  have disarmed (ht : t.enabled a = false) : ¬(t.axis a).ctl.enable = true := by
    rw [← State.enabled_eq, ht]; decide
  cases step_cases h with
  | updates u hu run =>
    have hdis := run.keeps (P := fun u => u.enabled a = false) (fun hu => hu.keeps_disabled) (hu.enabled ▸ hs)
    exact absurd harm (disarmed hdis)
  | global k v ds r hp hl ht =>
    obtain ⟨g, hg, -⟩ := writeGlobal_eq v (s.accept ds) r
    exact absurd harm (disarmed (by rw [ht, hg]; exact hs))
  | storage k v ds n hp hl h4 ht => exact absurd harm (disarmed (by rw [ht]; exact hs))
  | reset ds hp ht => exact absurd harm (disarmed (by rw [ht]; cases a <;> rfl))
  | axis k v ds b r hp hl ht =>
    subst ht
    rcases writeAxis_cases b v (s.accept ds) r with rfl | rfl | rfl | ⟨q, hq, hctl, -⟩
    · obtain ⟨rfl, hv, herr⟩ := armed_of_writeCtrl (s := s.accept ds) hs harm
      obtain ⟨off, hk, hoff⟩ := axisAddr_of_locate hl
      obtain ⟨-, rfl⟩ := axisLoc_ctrl hoff
      exact ⟨herr, _, ds, v, hp, ⟨k, rfl, hk⟩, hv⟩
    · exact absurd harm (disarmed (disabled_setCtl (s := s.accept ds) id hs))
    · exact absurd harm (disarmed (disabled_writeErrorSet (s := s.accept ds) hs))
    · exact absurd harm (disarmed (by rw [hq, enabled_setAxis hctl]; exact hs))

end Sys2Proof.Proofs
end

section
/-!
PROOFS. O30 and O31: the system commands (44_system.md R380 to R382).
-/

namespace Sys2Proof.Proofs
open Sys2Proof Sys2Proof.Machine

/-- Settles O30: each command is the update of its status. -/
theorem nopsOnlyWriteTheirStatus : Obligations.NopsOnlyWriteTheirStatus := by
  intro s
  refine ⟨fun a => ⟨s.setStatus a .ok, rfl, onlyStatus_setStatus s a .ok, ?_⟩,
    s.setGStatus .ok, rfl, onlyGStatus_setGStatus s .ok, rfl⟩
  rw [readAxis_cmdStatus_setStatus]; rfl

/-- A restarted sequencer runs in state 0, with no unit done and `BAD = 0` (44_system.md R382). -/
theorem seqStatusWord_seqRestart (r : SeqRegs) : seqStatusWord (seqRestart r) = 0x00000010#32 := by
  simp only [seqStatusWord, seqRestart]
  decide

/-- Settles O31: `SEQ_START` is the restart of `SEQ` and its status. -/
theorem seqStartRestartsFromStateZero : Obligations.SeqStartRestartsFromStateZero := by
  intro s
  have hinputs : s.SameInputs ((s.setSeq (seqRestart s.seq)).setGStatus .ok) := ⟨rfl, rfl, rfl, rfl, rfl, rfl⟩
  have htrig : bitAt Axis.ax0.toBool 0 ||| bitAt Axis.ax0.toBool 1 = 0#32 := by decide
  exact ⟨(s.setSeq (seqRestart s.seq)).setGStatus .ok, rfl, seqStatusWord_seqRestart s.seq, htrig, rfl, rfl,
    fun _ => rfl, rfl, rfl, fun _ => rfl, hinputs⟩

end Sys2Proof.Proofs
end

section
/-!
PROOFS. O7 and O22: no step stops (60_exceptions.md R400), and what a fault of one axis does (R405).
-/

namespace Sys2Proof.Proofs
open Sys2Proof Sys2Proof.Machine

/-- Settles O7: only a write and an event run an instruction, and no instruction stops (`exec_total`). -/
theorem everyStepAnswersANextState : Obligations.EveryStepAnswersANextState := by
  intro s
  cases hp : s.pending with
  | nil => exact ⟨_, step_idle hp⟩
  | cons d ds =>
    cases d with
    | event e =>
      obtain ⟨t, ht, -⟩ := runWire_total (.evt e) (s.take ds)
      exact ⟨t, (step_event hp).trans ht⟩
    | write k width v =>
      by_cases hrefused : RefusedAccess k width
      · exact ⟨_, step_write_of_refusedAccess hp hrefused⟩
      · have hk := (busAccepts_iff_not_refusedAccess k width).mpr hrefused
        obtain rfl : width = 32 := ((busAccepts_iff k width).mp hk).1
        obtain ⟨t, ht, -⟩ := writeLoc_total v (s.accept ds) (locate k)
        exact ⟨t, (step_write hp hk).trans ht⟩
    | read k width | setEncCnt a c | setPwmCnt a c | reset => exact ⟨_, step_deliver hp⟩

/-- Settles O22: `fault` on one axis is `faultAxis`, its `BRK` that of `faultAxis_brk`. -/
theorem faultSetsItsBitAndDisarmsTheAxis : Obligations.FaultSetsItsBitAndDisarmsTheAxis := by
  intro s a e
  rw [fault_one]
  have hbrk := faultAxis_brk e a s
  exact ⟨faultAxis_onlyAxis e a s, faultAxis_sameBytes e a s, faultAxis_axis_self e a s,
    fun harmed => hbrk.trans (if_pos harmed), fun hdisarmed => hbrk.trans (if_neg (by simp [hdisarmed]))⟩

end Sys2Proof.Proofs
end

section
/-!
PROOFS. O60: a command of one axis is independent of the other axis (60_exceptions.md R416, 42_foc.md R322). Two runs of one
command, from states that agree for its axis, keep that agreement at each operation (`Lockstep`).
-/

namespace Sys2Proof.Machine

/-! ### What two states that agree for an axis both read -/

section Agreement
variable {a : Axis} {s s' : State} (h : State.AgreeFor a s s')
include h

theorem State.AgreeFor.nanDraw : s'.nanDraw = s.nanDraw := by
  funext site; rw [State.nanDraw, h.draws]; rfl

theorem State.AgreeFor.enabled : s'.enabled = s.enabled := by
  funext b
  exact Axis.forall_of_self_other a (P := fun b => s'.enabled b = s.enabled b)
    (congrArg (fun r => r.ctl.enable) h.own) h.otherEnable b

theorem State.AgreeFor.ibusOf (b : Axis) : s'.ibusOf b = s.ibusOf b := by
  have hibus : (s'.axis b).foc.ibus = (s.axis b).foc.ibus :=
    Axis.forall_of_self_other a (P := fun b => (s'.axis b).foc.ibus = (s.axis b).foc.ibus)
      (congrArg (fun r => r.foc.ibus) h.own) h.otherIbus b
  rw [State.ibusOf, h.enabled, hibus]; rfl

theorem State.AgreeFor.brakeDutyOf : brakeDutyOf s' = brakeDutyOf s :=
  brakeDutyOf_congr h.draws h.g (h.ibusOf _) (h.ibusOf _)

theorem State.AgreeFor.sampleEnc : s'.sampleEnc a = s.sampleEnc a := h.encCnt

theorem State.AgreeFor.samplePwm : s'.samplePwm a = s.samplePwm a := h.pwmCnt

theorem State.AgreeFor.cprOf : s'.cprOf a = s.cprOf a := by rw [State.cprOf, h.own]; rfl

theorem State.AgreeFor.deadlineMissed : deadlineMissed a s' = deadlineMissed a s := by
  rw [Machine.deadlineMissed, h.own, h.samplePwm]; rfl

theorem State.AgreeFor.focRefusal : focRefusal a s' = focRefusal a s := by
  rw [Machine.focRefusal, h.enabled, h.g]; rfl

/-- An entry of the axis's map lies in its window (20_memory.md R134). -/
theorem State.AgreeFor.mapEntry {i : Nat} (hi : i < Config.mapDepth) : s'.mapEntry a i = s.mapEntry a i :=
  State.wordAt_congr fun k h0 h1 => h.bytes k <| .inr <| by
    simp only [mapAddr, Config.mapDepth] at *; omega

/-- A harmonic entry of the axis lies in its window (20_memory.md R135). -/
theorem State.AgreeFor.harmEntry {j : Nat} (hj : j < Config.nHarm) : s'.harmEntry a j = s.harmEntry a j := by
  have hword (f : Nat) (hf : f ≤ 8) : s'.wordAt (harmAddr a j + f) = s.wordAt (harmAddr a j + f) :=
    State.wordAt_congr fun k h0 h1 => h.bytes k <| .inl <| by
      simp only [harmAddr, Config.nHarm] at *; omega
  have hindex : s'.wordAt (harmAddr a j) = s.wordAt (harmAddr a j) := hword 0 (by omega)
  simp only [State.harmEntry, hindex, hword 4 (by omega), hword 8 (by omega)]

theorem State.AgreeFor.mapSignal {l : Nat} (hl : l ≤ Config.mapDepth) : mapSignal s' a l = mapSignal s a l :=
  List.map_congr_left fun n hn => by rw [h.mapEntry ((List.mem_range.mp hn).trans_le hl)]

theorem State.AgreeFor.harmSignal (l : Nat) : harmSignal s' a l = harmSignal s a l :=
  congrArg (scatter l) (List.map_congr_left fun _ hj => h.harmEntry (List.mem_range.mp hj))

end Agreement

/-! ### The same write to two storages -/

section Storage
variable {s s' : State} {k : Nat} (n : Nat)

/-- A byte that reads alike in two states does so after the same run of words is written to both. -/
theorem byteAt_setWords_congr (vs : List W32) (h : s'.byteAt k = s.byteAt k) :
    (s'.setMem (Memory.setWords s'.mem n vs)).byteAt k = (s.setMem (Memory.setWords s.mem n vs)).byteAt k := by
  simp only [State.byteAt, State.setMem_mem, State.setMem_epoch, Memory.get?_setWords] at h ⊢
  split
  · rfl
  · exact h

/-- The same for a run of harmonic entries. -/
theorem byteAt_setHarmonics_congr (hs : List Harmonic) (h : s'.byteAt k = s.byteAt k) :
    (s'.setMem (Memory.setHarmonics s'.mem n hs)).byteAt k = (s.setMem (Memory.setHarmonics s.mem n hs)).byteAt k := by
  simp only [State.byteAt, State.setMem_mem, State.setMem_epoch, Memory.get?_setHarmonics] at h ⊢
  split
  · rfl
  · exact h

end Storage

/-! ### What keeps to one axis -/

theorem State.OnlyAxis.refl (a : Axis) (s : State) : State.OnlyAxis a s s := ⟨.refl s, rfl, rfl, rfl⟩

theorem State.OnlyAxis.trans {a : Axis} {s t u : State} (h : State.OnlyAxis a s t) (h' : State.OnlyAxis a t u) :
    State.OnlyAxis a s u :=
  ⟨h.inputs.trans h'.inputs, h'.g.trans h.g, h'.seq.trans h.seq, h'.other.trans h.other⟩

theorem onlyAxis_setBrk (a : Axis) (s : State) (r : BrkRegs) : State.OnlyAxis a s (s.setBrk r) :=
  ⟨⟨rfl, rfl, rfl, rfl, rfl, rfl⟩, rfl, rfl, rfl⟩

end Sys2Proof.Machine

namespace Sys2Proof.Proofs
open Sys2Proof Sys2Proof.Machine

/-! ### Two runs in lockstep -/

/-- One run goes from `s` to `t` and one from `s'` to `t'`: they end in agreement for axis `a`, and the first leaves alone what
is not the axis's own but `BRK`. -/
structure Lockstep (a : Axis) (s s' t t' : State) : Prop where
  agree : State.AgreeFor a t t'
  only : State.OnlyAxis a s t
  foreign : ∀ n, ¬ownByte a n → t.byteAt n = s.byteAt n

theorem Lockstep.trans {a : Axis} {s s' t t' u u' : State} (h : Lockstep a s s' t t') (h' : Lockstep a t t' u u') :
    Lockstep a s s' u u' :=
  ⟨h'.agree, h.only.trans h'.only, fun n hn => (h'.foreign n hn).trans (h.foreign n hn)⟩

section Operations
variable {a : Axis} {s s' : State} (h : State.AgreeFor a s s')
include h

theorem lockstep_refl : Lockstep a s s' s s' := ⟨h, .refl a s, fun _ _ => rfl⟩

/-- Two runs that each keep to the axis end in agreement when the axis's registers, `BRK` and the axis's windows do. -/
theorem lockstep_of_onlyAxis {t t' : State} (ht : State.OnlyAxis a s t) (ht' : State.OnlyAxis a s' t')
    (hown : t'.axis a = t.axis a) (hbrk : t'.brk = t.brk) (hbytes : ∀ n, ownByte a n → t'.byteAt n = t.byteAt n)
    (hforeign : ∀ n, ¬ownByte a n → t.byteAt n = s.byteAt n) : Lockstep a s s' t t' where
  only := ht
  foreign := hforeign
  agree :=
    { brk := hbrk
      own := hown
      bytes := hbytes
      g := by rw [ht'.g, ht.g, h.g]
      otherEnable := by rw [State.enabled_eq, State.enabled_eq, ht'.other, ht.other]; exact h.otherEnable
      otherIbus := by rw [ht'.other, ht.other, h.otherIbus]
      draws := by rw [ht'.inputs.draws, ht.inputs.draws, h.draws]
      encCnt := by rw [ht'.inputs.encCnt, ht.inputs.encCnt, h.encCnt]
      pwmCnt := by rw [ht'.inputs.pwmCnt, ht.inputs.pwmCnt, h.pwmCnt] }

theorem lockstep_setAxis {q q' : AxisRegs} (hq : q' = q) : Lockstep a s s' (s.setAxis a q) (s'.setAxis a q') :=
  lockstep_of_onlyAxis h (onlyAxis_setAxis s a q) (onlyAxis_setAxis s' a q') (by simpa using hq) h.brk h.bytes
    fun _ _ => rfl

theorem lockstep_setBrk (r : BrkRegs) : Lockstep a s s' (s.setBrk r) (s'.setBrk r) :=
  lockstep_of_onlyAxis h (onlyAxis_setBrk a s r) (onlyAxis_setBrk a s' r) h.own rfl h.bytes fun _ _ => rfl

theorem lockstep_setStatus (c : Status) : Lockstep a s s' (s.setStatus a c) (s'.setStatus a c) :=
  lockstep_setAxis h (by rw [h.own])

theorem lockstep_setPll {r r' : PllRegs} (hr : r' = r) : Lockstep a s s' (s.setPll a r) (s'.setPll a r') :=
  lockstep_setAxis h (by rw [h.own, hr])

theorem lockstep_setFoc (r : FocRegs) : Lockstep a s s' (s.setFoc a r) (s'.setFoc a r) :=
  lockstep_setAxis h (by rw [h.own])

theorem lockstep_setPwm {r r' : PwmRegs} (hr : r' = r) : Lockstep a s s' (s.setPwm a r) (s'.setPwm a r') :=
  lockstep_setAxis h (by rw [h.own, hr])

/-- `BRK` reads of the other axis what the two states agree on (42_foc.md R320 to R322). -/
theorem lockstep_brkTry : Lockstep a s s' (brkTry s) (brkTry s') := by
  unfold brkTry
  rw [h.enabled, h.brk, h.brakeDutyOf]
  split_ifs
  · exact lockstep_setBrk h _
  · exact lockstep_setBrk h _
  · exact lockstep_refl h

theorem lockstep_brkReport : Lockstep a s s' (brkReport a s) (brkReport a s') := by
  unfold brkReport
  rw [h.brk]
  have hrep := lockstep_setBrk h { s.brk with reported := s.brk.reported.set a true }
  exact hrep.trans (lockstep_brkTry hrep.agree)

theorem lockstep_disableAxis : Lockstep a s s' (disableAxis a s) (disableAxis a s') := by
  unfold disableAxis
  rw [h.enabled]
  split
  · have hoff : Lockstep a s s' (s.setCtl a { (s.axis a).ctl with enable := false })
        (s'.setCtl a { (s'.axis a).ctl with enable := false }) := lockstep_setAxis h (by rw [h.own])
    have hrep := lockstep_setBrk hoff.agree { s.brk with reported := s.brk.reported.set a false }
    simp only [onDisable, State.setCtl_brk, h.brk]
    exact (hoff.trans hrep).trans (lockstep_brkTry hrep.agree)
  · exact lockstep_refl h

theorem lockstep_faultAxis (e : BlockError) : Lockstep a s s' (faultAxis e a s) (faultAxis e a s') := by
  have hbit : Lockstep a s s' (orError a e.mask s) (orError a e.mask s') := lockstep_setAxis h (by rw [h.own])
  exact hbit.trans (lockstep_disableAxis hbit.agree)

theorem lockstep_finishStep (d : Duties) : Lockstep a s s' (finishStep a d s) (finishStep a d s') := by
  have hlog : Lockstep a s s' (logCount a (commitTimings a d s)) (logCount a (commitTimings a d s')) := by
    rw [logCount_commitTimings, logCount_commitTimings]
    exact lockstep_setPwm h (by rw [h.own, h.nanDraw, h.samplePwm])
  cases hm : deadlineMissed a s with
  | true =>
    rw [finishStep_of_missed hm, finishStep_of_missed (h.deadlineMissed.trans hm)]
    have hfault := hlog.trans (lockstep_faultAxis hlog.agree .focTiming)
    exact hfault.trans (lockstep_setStatus hfault.agree .eTiming)
  | false =>
    rw [finishStep_of_intime hm, finishStep_of_intime (h.deadlineMissed.trans hm)]
    have hreport := hlog.trans (lockstep_brkReport hlog.agree)
    exact hreport.trans (lockstep_setStatus hreport.agree .ok)

/-- The end of an anti-cogging command: the two new storages read alike in the axis's windows and as before elsewhere. -/
theorem lockstep_acogDone (r : AcogRegs) {m m' : Memory}
    (hbytes : ∀ n, ownByte a n → (s'.setMem m').byteAt n = (s.setMem m).byteAt n)
    (hforeign : ∀ n, ¬ownByte a n → (s.setMem m).byteAt n = s.byteAt n) :
    Lockstep a s s' (acogDone s a r m) (acogDone s' a r m') :=
  lockstep_of_onlyAxis h (onlyAxis_acogDone s a r m) (onlyAxis_acogDone s' a r m')
    (by rw [axis_acogDone, axis_acogDone, h.own]) h.brk hbytes hforeign

end Operations

/-! ### The commands -/

/-- Both outcomes are next states, and the two runs are in lockstep. -/
def RunsInLockstep (a : Axis) (s s' : State) (o o' : Host.Outcome State Fault Refusal) : Prop :=
  ∃ t t', o = .next t ∧ o' = .next t' ∧ Lockstep a s s' t t'

theorem Lockstep.runs {a : Axis} {s s' t t' : State} (h : Lockstep a s s' t t') :
    RunsInLockstep a s s' (.next t) (.next t') := ⟨t, t', rfl, rfl, h⟩

section Commands
variable {a : Axis} {s s' : State} (h : State.AgreeFor a s s')
include h

/-- A command that ends with a new estimator and its status (41_pll.md R270 to R272). -/
theorem lockstep_setPll_setStatus {r r' : PllRegs} (hr : r' = r) (c : Status) :
    Lockstep a s s' ((s.setPll a r).setStatus a c) ((s'.setPll a r').setStatus a c) :=
  have hpll := lockstep_setPll h hr
  hpll.trans (lockstep_setStatus hpll.agree c)

theorem runsInLockstep_pllSetBw : RunsInLockstep a s s' (execPllSetBw a s) (execPllSetBw a s') := by
  simp only [execPllSetBw, h.own, h.nanDraw, h.g]
  split_ifs
  · exact (lockstep_setStatus h .eArg).runs
  · exact (lockstep_setStatus h .eArg).runs
  · exact (lockstep_setStatus h .eUnstable).runs
  · exact (lockstep_setPll_setStatus h rfl .ok).runs

/-- Both runs of a step of the current controller compute the same duty fractions and registers. -/
theorem computes_of_agreeFor {i : Instr} {d : Duties} {foc : FocRegs} (hi : Computes s a i d foc) :
    Computes s' a i d foc := by
  cases hi with
  | foc => rw [← h.nanDraw, ← h.g, ← h.own]; exact .foc
  | volt => rw [← h.nanDraw, ← h.g, ← h.own]; exact .volt

theorem runsInLockstep_of_computes {i : Instr} {d : Duties} {foc : FocRegs} (hi : Computes s a i d foc) :
    RunsInLockstep a s s' (exec i s) (exec i s') := by
  have hi' := computes_of_agreeFor h hi
  cases hr : focRefusal a s with
  | some c =>
    have hstep : i = .focStep a ∨ i = .voltStep a := by cases hi <;> simp
    rw [exec_of_focRefusal hstep hr, exec_of_focRefusal hstep (h.focRefusal.trans hr)]
    exact (lockstep_setStatus h c).runs
  | none =>
    have hr' := h.focRefusal.trans hr
    cases hd : d.anyNaN with
    | true =>
      rw [exec_of_anyNaN hi hr hd, exec_of_anyNaN hi' hr' hd]
      have hfault := lockstep_faultAxis h .modulation
      exact (hfault.trans (lockstep_setStatus hfault.agree .eModulation)).runs
    | false =>
      rw [exec_of_not_anyNaN hi hr hd, exec_of_not_anyNaN hi' hr' hd]
      have hfoc := lockstep_setFoc h foc
      exact (hfoc.trans (lockstep_finishStep hfoc.agree d)).runs

/-- The index of a lookup is below `CPR`, so the entry it reads is the axis's own (43_anticogging.md R341). -/
theorem runsInLockstep_acogLookup (hcpr : 1 ≤ (s.axis a).pll.cpr.toNat) :
    RunsInLockstep a s s' (execAcogLookup a s) (execAcogLookup a s') := by
  have hdone (ff : F32) : RunsInLockstep a s s'
      (.next ((s.setAcog a { (s.axis a).acog with ff := ff }).setStatus a .ok))
      (.next ((s'.setAcog a { (s.axis a).acog with ff := ff }).setStatus a .ok)) := by
    rw [setAcog_setStatus_eq_acogDone, setAcog_setStatus_eq_acogDone]
    exact (lockstep_acogDone h _ h.bytes fun _ _ => rfl).runs
  simp only [execAcogLookup, h.own, h.cprOf]
  split_ifs with hvalid harg hsize
  · exact hdone fZero
  · exact (lockstep_setStatus h .eArg).runs
  · exact (lockstep_setStatus h .eSize).runs
  · have hindex : lookupIndex (s.axis a).acog.pos (s.cprOf a) < Config.mapDepth :=
      (lookupIndex_spec _ hcpr).1.trans_le (not_lt.mp hsize)
    rw [h.mapEntry hindex]
    exact hdone _

theorem runsInLockstep_acogCompress : RunsInLockstep a s s' (exec (.acogCompress a) s) (exec (.acogCompress a) s') := by
  cases hl : supportedSize (s.cprOf a) with
  | false =>
    have hl' := (congrArg supportedSize h.cprOf).trans hl
    have hsize := (lockstep_setStatus h .eSize).runs
    rwa [← (execAcog_of_unsupported hl).1, ← (execAcog_of_unsupported hl').1] at hsize
  | true =>
    rw [exec_acogCompress_of_supported rfl hl, exec_acogCompress_of_supported h.cprOf hl, h.own, h.draws,
      h.mapSignal (le_mapDepth_of_supportedSize hl)]
    refine (lockstep_acogDone h _ (fun n hn => byteAt_setHarmonics_congr _ _ (h.bytes n hn)) fun n hn => ?_).runs
    refine State.byteAt_setHarmonics s _ n _ fun hin => hn (.inl ?_)
    rw [length_selectHarmonics] at hin
    simp only [harmAddr, Config.nHarm] at hin
    omega

theorem runsInLockstep_acogDecompress :
    RunsInLockstep a s s' (exec (.acogDecompress a) s) (exec (.acogDecompress a) s') := by
  cases hl : supportedSize (s.cprOf a) with
  | false =>
    have hl' := (congrArg supportedSize h.cprOf).trans hl
    have hsize := (lockstep_setStatus h .eSize).runs
    rwa [← (execAcog_of_unsupported hl).2, ← (execAcog_of_unsupported hl').2] at hsize
  | true =>
    rw [exec_acogDecompress_of_supported rfl hl, exec_acogDecompress_of_supported h.cprOf hl, h.own, h.nanDraw,
      h.harmSignal]
    refine (lockstep_acogDone h _ (fun n hn => byteAt_setWords_congr _ _ (h.bytes n hn)) fun n hn => ?_).runs
    refine State.byteAt_setWords s _ n _ fun hin => hn (.inr ?_)
    have hdepth : s.cprOf a ≤ 8192 := le_mapDepth_of_supportedSize hl
    rw [length_doubleReal, length_fftInv (harmSignal_length s a _)] at hin
    simp only [mapAddr] at hin
    omega

/-- Every command of an axis runs in lockstep from two states that agree for the axis. -/
theorem exec_runsInLockstep {i : Instr} (hi : commandAxis i = some a) (hcpr : 1 ≤ (s.axis a).pll.cpr.toNat) :
    RunsInLockstep a s s' (exec i s) (exec i s') := by
  cases i <;> cases hi
  case nop => exact (lockstep_setStatus h .ok).runs
  case pllInit => exact (lockstep_setPll_setStatus h (by rw [h.own, h.nanDraw, h.sampleEnc]) .ok).runs
  case pllUpdate => exact (lockstep_setPll_setStatus h (by rw [h.own, h.nanDraw, h.sampleEnc, h.g]) .ok).runs
  case pllSetBw => exact runsInLockstep_pllSetBw h
  case focStep => exact runsInLockstep_of_computes h .foc
  case voltStep => exact runsInLockstep_of_computes h .volt
  case acogLookup => exact runsInLockstep_acogLookup h hcpr
  case acogCompress => exact runsInLockstep_acogCompress h
  case acogDecompress => exact runsInLockstep_acogDecompress h

end Commands

/-- Settles O60: the lockstep of `exec_runsInLockstep`, taken apart. -/
theorem commandsOfOneAxisDoNotTouchTheOther : Obligations.CommandsOfOneAxisDoNotTouchTheOther := by
  intro i a s s' hi h hcpr
  obtain ⟨t, t', ht, ht', hlock⟩ := exec_runsInLockstep h hi hcpr
  exact ⟨t, t', ht, ht', hlock.agree, hlock.only.other, hlock.only.seq, hlock.only.g, hlock.foreign⟩

end Sys2Proof.Proofs
end

section
/-!
PROOFS. O17 and O18: the values after reset, and the step of a reset (70_reset_and_hazards.md R450, R451).
-/

namespace Sys2Proof.Proofs
open Sys2Proof Sys2Proof.Machine

/-! ### Reads of the registers do not show the environment's fields -/

/-- A byte that was never written reads by the epoch (log 1), a register does not: so the states are compared with the epoch
already the same. -/
theorem SameBlock.readLoc_epoch {s t : State} (h : SameBlock s t) (l : Loc) :
    readLoc t l = readLoc { s with epoch := t.epoch } l :=
  readLoc_congr (s := { s with epoch := t.epoch }) h.g h.seq h.brk (congrFun h.axis)
    (funext fun n => by rw [State.byteAt, State.byteAt, h.mem]) l

theorem SameBlock.readGlobal_eq {s t : State} (h : SameBlock s t) (r : GReg) : readGlobal t r = readGlobal s r :=
  h.readLoc_epoch (.global r)

theorem SameBlock.readAxis_eq {s t : State} (h : SameBlock s t) (a : Axis) (r : AxReg) :
    readAxis t a r = readAxis s a r :=
  h.readLoc_epoch (.axis a r)

/-! ### The reset values -/

theorem reset_axis (a : Axis) : State.reset.axis a = AxisRegs.reset := by cases a <;> rfl

/-- With `G.T` and `PLL_KP` zero their product is no NaN draw, and the loop is stable (10_state.md R72). -/
theorem pllUnstable_reset (a : Axis) : pllUnstable State.reset a = false := by
  rw [pllUnstable_eq _ a quietNaN (by decide), reset_axis]
  decide

/-- Every entry of the timing log is zero, and a read beyond it is zero as well. -/
theorem readAxis_reset_tlog (a : Axis) (i : Nat) : readAxis State.reset a (.tlog i) = 0#32 := by
  rw [readAxis, reset_axis, AxisRegs.reset, Vector.getElem?_replicate]
  split <;> rfl

/-- `CPR` and `POLE_PAIRS` are the only registers of an axis that do not read zero after reset. -/
theorem readAxis_reset (a : Axis) {r : AxReg} (hcpr : r ≠ .cpr) (hpp : r ≠ .polePairs) :
    readAxis State.reset a r = 0#32 := by
  cases r
  case cpr => exact absurd rfl hcpr
  case polePairs => exact absurd rfl hpp
  case status => rw [readAxis, pllUnstable_reset, reset_axis]; rfl
  case errorSet => rfl
  case tlog i => exact readAxis_reset_tlog a i
  all_goals rw [readAxis, reset_axis]; rfl

/-! ### The step of a reset -/

/-- A reset keeps the environment's fields and no register (70_reset_and_hazards.md R450, R453; log 14). -/
theorem sameBlock_afterReset (s : State) : SameBlock State.reset (afterReset s) := ⟨rfl, rfl, rfl, rfl, rfl⟩

theorem step_reset {s : State} {ds : List Delivery} (h : s.pending = .reset :: ds) :
    step s = .next (afterReset (s.take ds)) := step_deliver h

/-- Settles O17: the table of R451 by register, and a reset delivery leads to the same registers from any state. -/
theorem resetRegistersReadTheirResetValues : Obligations.ResetRegistersReadTheirResetValues := by
  refine ⟨by decide, fun a => ⟨?cpr, ?polePairs, fun i => readAxis_reset_tlog a i, fun r hr => ?zero⟩,
    fun s ds hp => ?step⟩
  case cpr | polePairs => rw [readAxis, reset_axis]; rfl
  case zero =>
    exact readAxis_reset a (ne_of_mem_of_not_mem hr (by decide)) (ne_of_mem_of_not_mem hr (by decide))
  case step =>
    have hblock := sameBlock_afterReset (s.take ds)
    refine ⟨_, step_reset hp, hblock.readGlobal_eq, hblock.readAxis_eq, fun a => ?_, hblock.g, hblock.seq, hblock.brk,
      fun a => ?_⟩
    · rw [hblock.axis, reset_axis]; exact ⟨rfl, rfl⟩
    · rw [hblock.axis]

/-- Settles O18: the reset values are legal (`inv_reset`), which is the base of the induction O19 is the step of. -/
theorem resetMeetsTheInvariant : Obligations.ResetMeetsTheInvariant := inv_reset

end Sys2Proof.Proofs
end
